-- ==== Sys2Proof/Word.lean ====
section
/-! DEFINITION. The word types of the machine (00_scope.md R7, R8): what the spec treats as bits. -/

namespace Sys2Proof

/-- One byte: a general register, a timer, a memory cell, a display byte (R7). -/
abbrev Byte := BitVec 8

/-- A 12-bit address: the observable width of `pc` and `I` (R7, 90_conflicts.md C8). -/
abbrev Addr := BitVec 12

/-- An opcode: one 16-bit instruction word (R7, 30_encoding.md R70). -/
abbrev Opcode := BitVec 16

/-- A register number: the 4-bit field naming `V0`..`VF` (R72); also a sprite height or a key number. -/
abbrev Nibble := BitVec 4

/-- The size of memory in bytes, fixed at 4096 (R6 `MEM_SIZE`, 20_memory.md R50). -/
def memSize : Nat := 4096

/-- The display's width in pixels (R6 `DISPLAY_W`). -/
def displayWidth : Nat := 64

/-- The display's height in pixels (R6 `DISPLAY_H`). -/
def displayHeight : Nat := 32

/-- The number of keys (R6 `KEY_COUNT`). -/
def keyCount : Nat := 16

end Sys2Proof
end

