-- ==== Sys2Proof/Config.lean ====
section
/-! DEFINITION. What is fixed for one machine instance, the construction parameters of 00_scope.md R6, and the
one free value of the model: the random byte of an evaluation (10_state.md R41). -/

namespace Sys2Proof

/-- The six quirk toggles (10_state.md R32). -/
structure Quirks where
  /-- bit 0: `8XY1`/`8XY2`/`8XY3` set `VF` to 0. -/
  vfReset : Bool
  /-- bit 1: `FX55`/`FX65` advance `I` by `x + 1`. -/
  memoryIncrement : Bool
  /-- bit 2: at most one draw per timer frame. -/
  displayWait : Bool
  /-- bit 3: a sprite is clipped at the bottom and right edges. -/
  clipping : Bool
  /-- bit 4: `8XY6`/`8XYE` shift `V[x]` in place; the stated effect wins over the name (90_conflicts.md C1). -/
  shiftUsesVy : Bool
  /-- bit 5: `BNNN` adds `V[x]` in place of `V[0]`. -/
  jumpUsesVx : Bool
  deriving DecidableEq, Repr

/-- The three execution strategies (44_dispatch_engines.md R210). -/
inductive Engine where
  | direct
  | decodeCache
  | basicBlock
  deriving DecidableEq, Repr

/-- The construction parameters (00_scope.md R6). -/
structure Config where
  /-- `START_ADDR` -/
  startAddr : Addr
  /-- `TIMER_RATIO`: cadence steps per timer frame. -/
  timerRatio : Nat
  /-- `QUIRKS` -/
  quirks : Quirks
  /-- `ENGINE` -/
  engine : Engine
  /-- `ROM`: the program's bytes, loaded at `START_ADDR`. -/
  rom : List Byte
  /-- `FONT_BASE` -/
  fontBase : Addr
  /-- `FONT_DATA`: 16 glyphs of 5 bytes. -/
  fontData : Vector Byte 80
  /-- `STACK_LIMIT`: none, or the depth at which a call faults. -/
  stackLimit : Option Nat
  deriving DecidableEq, Repr

/-- FREE VALUE: the byte the host supplies to the `k`-th evaluation of the run (R41, D26; notes/assumptions/7.md).
It has no body: nothing constrains it. -/
opaque Config.rndByte : Nat → Byte

end Sys2Proof
end

