-- ==== Sys2Proof/Syntax.lean ====
section
/-! DEFINITION. The instructions: one constructor per row of spec/opcode_table.json (30_encoding.md R74).
A constructor carries the descriptor fields its rule reads (R71); `unimpl` carries the raw opcode. -/

namespace Sys2Proof

/-- The 34 instruction rows of the opcode map and the `UNIMPL` fallback (R74, R75). -/
inductive Instr where
  /-- `00E0` CLS (R100). -/
  | cls
  /-- `00EE` RET (R101). -/
  | ret
  /-- `1NNN` JP nnn (R102). -/
  | jp (nnn : Addr)
  /-- `2NNN` CALL nnn (R103). -/
  | call (nnn : Addr)
  /-- `3XNN` SE Vx, nn (R104). -/
  | seImm (x : Nibble) (nn : Byte)
  /-- `4XNN` SNE Vx, nn (R105). -/
  | sneImm (x : Nibble) (nn : Byte)
  /-- `5XY0` SE Vx, Vy (R106). -/
  | seReg (x y : Nibble)
  /-- `6XNN` LD Vx, nn (R130). -/
  | ldImm (x : Nibble) (nn : Byte)
  /-- `7XNN` ADD Vx, nn (R131). -/
  | addImm (x : Nibble) (nn : Byte)
  /-- `8XY0` LD Vx, Vy (R132). -/
  | ldReg (x y : Nibble)
  /-- `8XY1` OR Vx, Vy (R134). -/
  | orReg (x y : Nibble)
  /-- `8XY2` AND Vx, Vy (R135). -/
  | andReg (x y : Nibble)
  /-- `8XY3` XOR Vx, Vy (R136). -/
  | xorReg (x y : Nibble)
  /-- `8XY4` ADD Vx, Vy (R137). -/
  | addReg (x y : Nibble)
  /-- `8XY5` SUB Vx, Vy (R138). -/
  | sub (x y : Nibble)
  /-- `8XY6` SHR Vx, Vy (R140). -/
  | shr (x y : Nibble)
  /-- `8XY7` SUBN Vx, Vy (R141). -/
  | subn (x y : Nibble)
  /-- `8XYE` SHL Vx, Vy (R142). -/
  | shl (x y : Nibble)
  /-- `9XY0` SNE Vx, Vy (R107). -/
  | sneReg (x y : Nibble)
  /-- `ANNN` LD I, nnn (R170). -/
  | ldI (nnn : Addr)
  /-- `BNNN` JP V0, nnn (R108); its `x` is the top digit of `nnn`. -/
  | jpV0 (nnn : Addr)
  /-- `CXNN` RND Vx, nn (R144). -/
  | rnd (x : Nibble) (nn : Byte)
  /-- `DXYN` DRW Vx, Vy, n (R244). -/
  | drw (x y n : Nibble)
  /-- `EX9E` SKP Vx (R192). -/
  | skp (x : Nibble)
  /-- `EXA1` SKNP Vx (R193). -/
  | sknp (x : Nibble)
  /-- `FX07` LD Vx, DT (R171). -/
  | ldVDt (x : Nibble)
  /-- `FX0A` LD Vx, K (R194). -/
  | ldVK (x : Nibble)
  /-- `FX15` LD DT, Vx (R172). -/
  | ldDtV (x : Nibble)
  /-- `FX18` LD ST, Vx (R173). -/
  | ldStV (x : Nibble)
  /-- `FX1E` ADD I, Vx (R174). -/
  | addI (x : Nibble)
  /-- `FX29` LD F, Vx (R175). -/
  | ldF (x : Nibble)
  /-- `FX33` LD B, Vx (R177). -/
  | ldB (x : Nibble)
  /-- `FX55` LD [I], Vx (R178). -/
  | storeRegs (x : Nibble)
  /-- `FX65` LD Vx, [I] (R179). -/
  | loadRegs (x : Nibble)
  /-- Any opcode that matches no row (R76, R229), kept whole. -/
  | unimpl (op : Opcode)
  deriving DecidableEq, Repr

end Sys2Proof
end

