-- ==== Sys2Proof/WellFormed.lean ====
section
/-! DEFINITION. Which terms of `Instr` stand for an instruction of the hardware. Every operand field has exactly
its encoded width, so the one check is that `unimpl` holds an unassigned opcode (30_encoding.md R76). -/

namespace Sys2Proof

/-- R76's list of the unassigned opcodes, read digit by digit: the opcodes that match no row of the opcode map. -/
def unassigned (op : Opcode) : Bool :=
  let nn := op.extractLsb' 0 8
  let n := op.extractLsb' 0 4
  match (op.extractLsb' 12 4).toNat with
  | 0x0 => op != 0x00E0#16 && op != 0x00EE#16
  | 0x5 => n != 0#4
  | 0x9 => n != 0#4
  | 0x8 => [0x8#4, 0x9#4, 0xA#4, 0xB#4, 0xC#4, 0xD#4, 0xF#4].contains n
  | 0xE => !([0x9E#8, 0xA1#8].contains nn)
  | 0xF => !([0x07#8, 0x0A#8, 0x15#8, 0x18#8, 0x1E#8, 0x29#8, 0x33#8, 0x55#8, 0x65#8].contains nn)
  | _ => false

/-- The check: an `unimpl` term is well formed only for an unassigned opcode; every other term is. -/
def Instr.wellFormed : Instr → Bool
  | .unimpl op => unassigned op
  | .cls | .ret | .jp _ | .call _ | .seImm _ _
  | .sneImm _ _ | .seReg _ _ | .ldImm _ _ | .addImm _ _ | .ldReg _ _
  | .orReg _ _ | .andReg _ _ | .xorReg _ _ | .addReg _ _ | .sub _ _
  | .shr _ _ | .subn _ _ | .shl _ _ | .sneReg _ _ | .ldI _
  | .jpV0 _ | .rnd _ _ | .drw _ _ _ | .skp _ | .sknp _
  | .ldVDt _ | .ldVK _ | .ldDtV _ | .ldStV _ | .addI _
  | .ldF _ | .ldB _ | .storeRegs _ | .loadRegs _ => true

/-- `Instr.wellFormed` as a proposition. -/
abbrev Instr.WellFormed (i : Instr) : Prop := i.wellFormed = true

end Sys2Proof
end

