-- ==== Sys2Proof/Decode.lean ====
section
/-! DEFINITION. The decoder: R71's fixed fields and R73's first-match-wins table of four-digit patterns, and the
encoder written from the same table (30_encoding.md). -/

namespace Sys2Proof

/-- The operand fields of an Instruction Descriptor, extracted from every opcode (R71). -/
structure Fields where
  x : Nibble
  y : Nibble
  n : Nibble
  nn : Byte
  nnn : Addr
  op : Opcode
  deriving DecidableEq, Repr

/-- R71: `x = op[11:8]`, `y = op[7:4]`, `n = op[3:0]`, `nn = op[7:0]`, `nnn = op[11:0]`. -/
def fieldsOf (op : Opcode) : Fields where
  x := op.extractLsb' 8 4
  y := op.extractLsb' 4 4
  n := op.extractLsb' 0 4
  nn := op.extractLsb' 0 8
  nnn := op.extractLsb' 0 12
  op := op

/-- R71: the top digit `op[15:12]`. -/
def op4 (op : Opcode) : Nibble := op.extractLsb' 12 4

/-- One digit of a pattern (R73): a hexadecimal constant, or a wildcard (`X`, `Y`, `N`). -/
inductive PatDigit where
  | hex (d : Nibble)
  | any
  deriving DecidableEq, Repr

/-- R73: a constant must equal the opcode's digit, a wildcard admits any. -/
def PatDigit.admits : PatDigit → Nibble → Bool
  | .hex c, d => c == d
  | .any, _ => true

/-- A pattern of four digits, the most significant first (R73). -/
structure Pattern where
  d3 : PatDigit
  d2 : PatDigit
  d1 : PatDigit
  d0 : PatDigit
  deriving DecidableEq, Repr

/-- An opcode matches a pattern when each of its digits is admitted (R73). -/
def Pattern.admits (p : Pattern) (op : Opcode) : Bool :=
  p.d3.admits (op4 op) && p.d2.admits (fieldsOf op).x && p.d1.admits (fieldsOf op).y && p.d0.admits (fieldsOf op).n

/-- A row of the opcode map: its pattern, and the instruction it makes of the fields (R74). -/
structure Row where
  pattern : Pattern
  build : Fields → Instr

/-- The patterns `0`..`7` and `9`..`D` of R74. -/
def mapMain : List Row :=
  [ ⟨⟨.hex 0x0, .hex 0x0, .hex 0xE, .hex 0x0⟩, fun _ => .cls⟩,
    ⟨⟨.hex 0x0, .hex 0x0, .hex 0xE, .hex 0xE⟩, fun _ => .ret⟩,
    ⟨⟨.hex 0x1, .any, .any, .any⟩, fun f => .jp f.nnn⟩,
    ⟨⟨.hex 0x2, .any, .any, .any⟩, fun f => .call f.nnn⟩,
    ⟨⟨.hex 0x3, .any, .any, .any⟩, fun f => .seImm f.x f.nn⟩,
    ⟨⟨.hex 0x4, .any, .any, .any⟩, fun f => .sneImm f.x f.nn⟩,
    ⟨⟨.hex 0x5, .any, .any, .hex 0x0⟩, fun f => .seReg f.x f.y⟩,
    ⟨⟨.hex 0x6, .any, .any, .any⟩, fun f => .ldImm f.x f.nn⟩,
    ⟨⟨.hex 0x7, .any, .any, .any⟩, fun f => .addImm f.x f.nn⟩,
    ⟨⟨.hex 0x9, .any, .any, .hex 0x0⟩, fun f => .sneReg f.x f.y⟩,
    ⟨⟨.hex 0xA, .any, .any, .any⟩, fun f => .ldI f.nnn⟩,
    ⟨⟨.hex 0xB, .any, .any, .any⟩, fun f => .jpV0 f.nnn⟩,
    ⟨⟨.hex 0xC, .any, .any, .any⟩, fun f => .rnd f.x f.nn⟩,
    ⟨⟨.hex 0xD, .any, .any, .any⟩, fun f => .drw f.x f.y f.n⟩ ]

/-- The patterns `8XY0`..`8XYE` of R74. -/
def mapAlu : List Row :=
  [ ⟨⟨.hex 0x8, .any, .any, .hex 0x0⟩, fun f => .ldReg f.x f.y⟩,
    ⟨⟨.hex 0x8, .any, .any, .hex 0x1⟩, fun f => .orReg f.x f.y⟩,
    ⟨⟨.hex 0x8, .any, .any, .hex 0x2⟩, fun f => .andReg f.x f.y⟩,
    ⟨⟨.hex 0x8, .any, .any, .hex 0x3⟩, fun f => .xorReg f.x f.y⟩,
    ⟨⟨.hex 0x8, .any, .any, .hex 0x4⟩, fun f => .addReg f.x f.y⟩,
    ⟨⟨.hex 0x8, .any, .any, .hex 0x5⟩, fun f => .sub f.x f.y⟩,
    ⟨⟨.hex 0x8, .any, .any, .hex 0x6⟩, fun f => .shr f.x f.y⟩,
    ⟨⟨.hex 0x8, .any, .any, .hex 0x7⟩, fun f => .subn f.x f.y⟩,
    ⟨⟨.hex 0x8, .any, .any, .hex 0xE⟩, fun f => .shl f.x f.y⟩ ]

/-- The patterns `EX..` and `FX..` of R74. -/
def mapMisc : List Row :=
  [ ⟨⟨.hex 0xE, .any, .hex 0x9, .hex 0xE⟩, fun f => .skp f.x⟩,
    ⟨⟨.hex 0xE, .any, .hex 0xA, .hex 0x1⟩, fun f => .sknp f.x⟩,
    ⟨⟨.hex 0xF, .any, .hex 0x0, .hex 0x7⟩, fun f => .ldVDt f.x⟩,
    ⟨⟨.hex 0xF, .any, .hex 0x0, .hex 0xA⟩, fun f => .ldVK f.x⟩,
    ⟨⟨.hex 0xF, .any, .hex 0x1, .hex 0x5⟩, fun f => .ldDtV f.x⟩,
    ⟨⟨.hex 0xF, .any, .hex 0x1, .hex 0x8⟩, fun f => .ldStV f.x⟩,
    ⟨⟨.hex 0xF, .any, .hex 0x1, .hex 0xE⟩, fun f => .addI f.x⟩,
    ⟨⟨.hex 0xF, .any, .hex 0x2, .hex 0x9⟩, fun f => .ldF f.x⟩,
    ⟨⟨.hex 0xF, .any, .hex 0x3, .hex 0x3⟩, fun f => .ldB f.x⟩,
    ⟨⟨.hex 0xF, .any, .hex 0x5, .hex 0x5⟩, fun f => .storeRegs f.x⟩,
    ⟨⟨.hex 0xF, .any, .hex 0x6, .hex 0x5⟩, fun f => .loadRegs f.x⟩ ]

/-- The opcode map: the 34 instruction rows of R74 (PRESUMED patterns, notes/assumptions/12.md). -/
def opcodeMap : List Row := mapMain ++ mapAlu ++ mapMisc

/-- R73, R75: the first row that admits the opcode builds the instruction; when none does, the `UNIMPL` fallback.
Total over all 65536 opcodes; reads nothing but the opcode. -/
def decode (op : Opcode) : Instr :=
  match opcodeMap.find? (fun r => r.pattern.admits op) with
  | some r => r.build (fieldsOf op)
  | none => .unimpl op

/-- Why bytes hold no instruction. -/
inductive DecodeError where
  /-- Fewer than the two bytes every instruction has (R70, R77). -/
  | truncated
  deriving DecidableEq, Repr

/-- The opcode two bytes make, the one at the lower address on top (20_memory.md R55, PRESUMED,
notes/assumptions/11.md). -/
def opcodeOfBytes (hi lo : Byte) : Opcode := hi ++ lo

/-- The two bytes of an opcode as memory holds them, the one at the lower address first (R55). -/
def bytesOfOpcode (op : Opcode) : List Byte := [op.extractLsb' 8 8, op.extractLsb' 0 8]

/-- Decodes the instruction at the head of a byte sequence, and gives the bytes after it (R70, R77). -/
def decodeBytes : List Byte → Except DecodeError (Instr × List Byte)
  | hi :: lo :: rest => .ok (decode (opcodeOfBytes hi lo), rest)
  | _ => .error .truncated

/-- The opcode of a table word: `nbits` bits are given, every bit above them is 0. -/
def tableWord (nbits w : Nat) : Opcode := BitVec.ofNat 16 (w % 2 ^ nbits)

/-- The instruction the decoder reads from an instruction whose bits are `w`, numbered as spec/opcode_table.json
numbers them (one 16-bit word, bit 0 its least significant bit), laid out as memory holds it. -/
def decodeTableWord (nbits w : Nat) : Option Instr :=
  match decodeBytes (bytesOfOpcode (tableWord nbits w)) with
  | .ok (i, _) => some i
  | .error _ => none

/-- An opcode of shape `dNNN`: a top digit and a 12-bit address (R71). -/
def opNNN (d : Nibble) (nnn : Addr) : Opcode := d ++ nnn

/-- An opcode of shape `dXNN`: a top digit, a register and a byte (R71). -/
def opXNN (d x : Nibble) (nn : Byte) : Opcode := (d ++ x) ++ nn

/-- An opcode of shape `dXYN`: four digits (R71). -/
def opXYN (d x y n : Nibble) : Opcode := (d ++ x) ++ (y ++ n)

/-- The word of an instruction, from the pattern column of R74; an `unimpl` term holds its own word. -/
def encode : Instr → Opcode
  | .cls => 0x00E0#16
  | .ret => 0x00EE#16
  | .jp nnn => opNNN 0x1 nnn
  | .call nnn => opNNN 0x2 nnn
  | .seImm x nn => opXNN 0x3 x nn
  | .sneImm x nn => opXNN 0x4 x nn
  | .seReg x y => opXYN 0x5 x y 0x0
  | .ldImm x nn => opXNN 0x6 x nn
  | .addImm x nn => opXNN 0x7 x nn
  | .ldReg x y => opXYN 0x8 x y 0x0
  | .orReg x y => opXYN 0x8 x y 0x1
  | .andReg x y => opXYN 0x8 x y 0x2
  | .xorReg x y => opXYN 0x8 x y 0x3
  | .addReg x y => opXYN 0x8 x y 0x4
  | .sub x y => opXYN 0x8 x y 0x5
  | .shr x y => opXYN 0x8 x y 0x6
  | .subn x y => opXYN 0x8 x y 0x7
  | .shl x y => opXYN 0x8 x y 0xE
  | .sneReg x y => opXYN 0x9 x y 0x0
  | .ldI nnn => opNNN 0xA nnn
  | .jpV0 nnn => opNNN 0xB nnn
  | .rnd x nn => opXNN 0xC x nn
  | .drw x y n => opXYN 0xD x y n
  | .skp x => opXNN 0xE x 0x9E
  | .sknp x => opXNN 0xE x 0xA1
  | .ldVDt x => opXNN 0xF x 0x07
  | .ldVK x => opXNN 0xF x 0x0A
  | .ldDtV x => opXNN 0xF x 0x15
  | .ldStV x => opXNN 0xF x 0x18
  | .addI x => opXNN 0xF x 0x1E
  | .ldF x => opXNN 0xF x 0x29
  | .ldB x => opXNN 0xF x 0x33
  | .storeRegs x => opXNN 0xF x 0x55
  | .loadRegs x => opXNN 0xF x 0x65
  | .unimpl op => op

/-- The bytes of an instruction as memory holds them. -/
def encodeBytes (i : Instr) : List Byte := bytesOfOpcode (encode i)

end Sys2Proof
end

