-- ==== Sys2Proof/Machine/Boot.lean ====
section
/-! DEFINITION. What construction computes from its parameters (70_reset_and_hazards.md R400-R403): the checks,
the default parameters, the memory and the decode cache. -/

namespace Sys2Proof.Machine

/-- The default quirks (10_state.md R32), `QUIRK[5:0]` = 0x0F. -/
def defaultQuirks : Quirks :=
  { vfReset := true, memoryIncrement := true, displayWait := true, clipping := true,
    shiftUsesVy := false, jumpUsesVx := false }

/-- `QUIRK[5:0]` as a construction input (R32, D22): bit 0 `vf_reset` .. bit 5 `jump_uses_vx`. -/
def quirksOfBits (q : BitVec 6) : Quirks :=
  { vfReset := q.getLsbD 0, memoryIncrement := q.getLsbD 1, displayWait := q.getLsbD 2,
    clipping := q.getLsbD 3, shiftUsesVy := q.getLsbD 4, jumpUsesVx := q.getLsbD 5 }

/-- The default `FONT_DATA` (42_index_timer_memory.md R176; PRESUMED, notes/assumptions/13.md). -/
def defaultFont : Vector Byte 80 :=
  #v[0xF0, 0x90, 0x90, 0x90, 0xF0,  0x20, 0x60, 0x20, 0x20, 0x70,
     0xF0, 0x10, 0xF0, 0x80, 0xF0,  0xF0, 0x10, 0xF0, 0x10, 0xF0,
     0x90, 0x90, 0xF0, 0x10, 0x10,  0xF0, 0x80, 0xF0, 0x10, 0xF0,
     0xF0, 0x80, 0xF0, 0x90, 0xF0,  0xF0, 0x10, 0x20, 0x40, 0x40,
     0xF0, 0x90, 0xF0, 0x90, 0xF0,  0xF0, 0x90, 0xF0, 0x10, 0xF0,
     0xF0, 0x90, 0xF0, 0x90, 0x90,  0xE0, 0x90, 0xE0, 0x90, 0xE0,
     0xF0, 0x80, 0x80, 0x80, 0xF0,  0xE0, 0x90, 0x90, 0x90, 0xE0,
     0xF0, 0x80, 0xF0, 0x80, 0xF0,  0xF0, 0x80, 0xF0, 0x80, 0x80]

/-- The parameters of `State.reset`: the spec's defaults where it gives one (`START_ADDR`, `QUIRKS`, `FONT_DATA`,
`STACK_LIMIT`); `FONT_BASE` PRESUMED, `ENGINE`, `TIMER_RATIO` and the empty `ROM` DESIGN CHOICE
(notes/assumptions/3.md). -/
def defaultConfig : Config :=
  { startAddr := 0x200, timerRatio := 10, quirks := defaultQuirks, engine := .direct, rom := [],
    fontBase := 0x050, fontData := defaultFont, stackLimit := none }

/-- The construction checks of R403. An empty ROM range overlaps nothing. -/
def validConfig (c : Config) : Bool :=
  decide (c.startAddr.toNat % 2 = 0) &&
  decide (c.rom.length ≤ memSize - c.startAddr.toNat) &&
  decide (c.fontBase.toNat + 80 ≤ memSize) &&
  decide (c.rom = [] ∨ c.fontBase.toNat + 80 ≤ c.startAddr.toNat ∨ c.startAddr.toNat + c.rom.length ≤ c.fontBase.toNat) &&
  decide (1 ≤ c.timerRatio) &&
  decide (c.stackLimit ≠ some 0)

/-- Memory at construction (R401): 0x00 everywhere, then the font, then the ROM. -/
def initialMemory (c : Config) : Memory :=
  Memory.writeBytes (Memory.writeBytes [] c.fontBase.toNat c.fontData.toList) c.startAddr.toNat c.rom

/-- The opcode in memory at `a` and `a + 1` (20_memory.md R55). -/
def opcodeAt (m : Memory) (a : Nat) : Opcode := opcodeOfBytes (Memory.read m a) (Memory.read m (a + 1))

/-- The number of slots `START_ADDR + 2k` with `2k < length(ROM)` (44_dispatch_engines.md R215). -/
def slotCount (c : Config) : Nat := (c.rom.length + 1) / 2

/-- The decode cache of R215: the descriptor of slot `START_ADDR + 2k` at index `k`. -/
def decodeSlots (c : Config) (m : Memory) : List Instr :=
  (List.range (slotCount c)).map (fun k => decode (opcodeAt m (c.startAddr.toNat + 2 * k)))

/-- The decode cache at construction: it exists only when `ENGINE` selects it (10_state.md R38, 70 R400). -/
def initialDecodeCache (c : Config) : List Instr :=
  match c.engine with
  | .direct => []
  | .decodeCache => decodeSlots c (initialMemory c)
  | .basicBlock => decodeSlots c (initialMemory c)

end Sys2Proof.Machine
end

