-- ==== Sys2Proof/Machine/State.lean ====
section
/-! DEFINITION. The Machine State (10_state.md): every element the spec gives, as plain data, and its value right
after construction (70_reset_and_hazards.md R404). -/

namespace Sys2Proof.Machine

/-- The fault codes of 60_exceptions.md R301. -/
inductive FaultCode where
  | stackUnderflow
  | stackOverflow
  | memRange
  | fetchRange
  | keyRange
  | cacheMiss
  deriving DecidableEq, Repr

/-- `halted` (R34): running, or the record of the fault that ended the run. -/
inductive Halted where
  | running
  | faulted (code : FaultCode) (ia : Addr)
  deriving DecidableEq, Repr

/-- Reasons for which the model's step has no next state: there is none. The spec describes the effect of each of
its six fault conditions (60_exceptions.md R300: the record in `halted`), so each is a NEXT state and nothing raises
a `Fault` (notes/assumptions/1.md). -/
inductive Fault where
  deriving DecidableEq, Repr

/-- Reasons for which the model has no meaning for what it is asked. -/
inductive Refusal where
  /-- An arm of `exec` whose instruction has no meaning yet; no arm raises it. Safe. -/
  | notModelled (mnemonic : String)
  /-- Raised by `State.construct` alone, for parameters that fail the checks of 70_reset_and_hazards.md R403
  ("A model refuses such a construction, so it has no run"). Safe. -/
  | invalidConstruction
  deriving DecidableEq, Repr

/-- The Machine State. -/
structure State where
  /-- `V0`..`VF` (R20). -/
  v : Vector Byte 16
  /-- `pc` (R23). -/
  pc : Addr
  /-- `I` (R26). -/
  index : Addr
  /-- `stack` (R27), the last element on top. -/
  stack : List Addr
  /-- `DT` (R28). -/
  delay : Byte
  /-- `ST` (R28). -/
  sound : Byte
  /-- `display_wait_latch` (R29). -/
  displayWaitLatch : Bool
  /-- `key_release_latch` (R30). -/
  keyReleaseLatch : Bool
  /-- `dirty` (R31). -/
  dirty : Bool
  /-- `cadence` (R33). -/
  cadence : Nat
  /-- `halted` (R34). -/
  halted : Halted
  /-- The display bitmap (R35). -/
  display : Vector Byte 256
  /-- The key bitmap (R36). -/
  keys : Vector Byte 2
  /-- Memory (R37). -/
  mem : Memory
  /-- The decode cache (R38): the descriptor of slot `START_ADDR + 2k` at index `k`. -/
  decodeCache : List Instr
  /-- The block cache (R38): entry address and block, in rising order of address. -/
  blockCache : List (Nat × List Instr)
  /-- The construction parameters, `QUIRKS` (R32) among them; no step changes them (notes/assumptions/2.md). -/
  config : Config
  /-- The model's own: `ia`, the address of the instruction under evaluation (00 R12; notes/assumptions/6.md). -/
  ia : Addr
  /-- The model's own: `rnd`, the random byte supplied to the evaluation under way (R41; notes/assumptions/6.md). -/
  rnd : Byte
  /-- The model's own: how many evaluations have begun, the position in the random sequence
  (notes/assumptions/6.md). -/
  evals : Nat
  deriving DecidableEq, Repr

/-- Every state element at its reset value (R404), for given parameters. -/
def State.initial (c : Config) : State where
  v := Vector.replicate 16 0x00
  pc := c.startAddr
  index := 0x000
  stack := []
  delay := 0x00
  sound := 0x00
  displayWaitLatch := false
  keyReleaseLatch := false
  dirty := false
  cadence := 0
  halted := .running
  display := Vector.replicate 256 0x00
  keys := Vector.replicate 2 0x00
  mem := initialMemory c
  decodeCache := initialDecodeCache c
  blockCache := []
  config := c
  ia := c.startAddr
  rnd := 0x00
  evals := 0

/-- The machine right after reset: a construction with the parameters of `defaultConfig`. -/
def State.reset : State := State.initial defaultConfig

end Sys2Proof.Machine
end

