-- ==== Sys2Proof/Machine/Ops.lean ====
section
/-! DEFINITION. The named operations over the Machine State: register, memory, stack and device access
(00_scope.md R9-R11), the fault mechanism (60_exceptions.md R300) and the timer cadence (R320, R321). -/

namespace Sys2Proof.Machine

/-- `V[r]` (R9). -/
def State.reg (s : State) (r : Nibble) : Byte := s.v[r.toNat]'r.isLt

/-- `V[r] <- b` (R9). -/
def State.setReg (s : State) (r : Nibble) (b : Byte) : State := { s with v := s.v.set r.toNat b r.isLt }

/-- `VF`, that is `V[15]` (R21). -/
def State.vf (s : State) : Byte := s.reg 0xF

/-- `VF <- b` (R21): the one write of every semantic that sets a flag. -/
def State.setVf (s : State) (b : Byte) : State := s.setReg 0xF b

/-- `pc <- a` (R23). -/
def State.setPc (s : State) (a : Addr) : State := { s with pc := a }

/-- `I <- a` (R26). -/
def State.setIndex (s : State) (a : Addr) : State := { s with index := a }

/-- `DT <- b` (R28). -/
def State.setDelay (s : State) (b : Byte) : State := { s with delay := b }

/-- `ST <- b` (R28). -/
def State.setSound (s : State) (b : Byte) : State := { s with sound := b }

/-- `display_wait_latch <- b` (R29). -/
def State.setDisplayWaitLatch (s : State) (b : Bool) : State := { s with displayWaitLatch := b }

/-- `key_release_latch <- b` (R30). -/
def State.setKeyReleaseLatch (s : State) (b : Bool) : State := { s with keyReleaseLatch := b }

/-- `dirty <- b` (R31). -/
def State.setDirty (s : State) (b : Bool) : State := { s with dirty := b }

/-- The whole display bitmap (R35). -/
def State.setDisplay (s : State) (d : Vector Byte 256) : State := { s with display := d }

/-- The whole register file, for the block load (R179). -/
def State.setRegs (s : State) (v : Vector Byte 16) : State := { s with v := v }

/-- Memory after a sequence of byte writes (R10, R53). -/
def State.setMem (s : State) (m : Memory) : State := { s with mem := m }

/-- The key bitmap (R36), for the host alone. -/
def State.setKeys (s : State) (k : Vector Byte 2) : State := { s with keys := k }

/-- The cadence counter (R33). -/
def State.setCadence (s : State) (n : Nat) : State := { s with cadence := n }

/-- The address of the instruction under evaluation (R12), the model's own field. -/
def State.setIa (s : State) (a : Addr) : State := { s with ia := a }

/-- The block cache (R221). -/
def State.setBlockCache (s : State) (c : List (Nat × List Instr)) : State := { s with blockCache := c }

/-- `halted` (R34). -/
def State.setHalted (s : State) (h : Halted) : State := { s with halted := h }

/-- Whether the core is running (R34). -/
def State.running (s : State) : Bool := decide (s.halted = .running)

/-- `raise Fault(code, info)` (R300): the record of the code and of `ia`; nothing else is written. -/
def State.raise (s : State) (code : FaultCode) : State := s.setHalted (.faulted code s.ia)

/-- `RewindPC()` (R11): `pc` minus one instruction width, modulo 4096. -/
def State.rewindPc (s : State) : State := s.setPc (s.pc - 2)

/-- A skip: `pc <- a12(pc + 2)` when the condition holds (40 R104). -/
def State.skipIf (s : State) (c : Bool) : State := if c then s.setPc (s.pc + 2) else s

/-- `Push(a)` (R11): append to the end of `stack`. -/
def State.push (s : State) (a : Addr) : State := { s with stack := s.stack ++ [a] }

/-- `Pop()`'s effect on `stack` (R11): drop the last element. -/
def State.dropTop (s : State) : State := { s with stack := s.stack.dropLast }

/-- The last element of `stack`, what `Pop()` returns (R11). -/
def State.top (s : State) : Option Addr := s.stack.getLast?

/-- Whether a call at this depth exceeds the optional `STACK_LIMIT` (60 R303). -/
def State.stackFull (s : State) : Bool := decide (s.config.stackLimit = some s.stack.length)

/-- `KeyDown(k)` for a key 0..15 (43 R190): byte `k div 8`, bit `7 - (k mod 8)`. -/
def keyBit (keys : Vector Byte 2) (k : Nat) : Bool := (keys[k / 8]?.getD 0).getLsbD (7 - k % 8)

/-- The key bitmap with one key's bit written (R190), the other keys as before. -/
def setKeyBit (keys : Vector Byte 2) (k : Nat) (down : Bool) : Vector Byte 2 :=
  let mask : Byte := 1#8 <<< (7 - k % 8)
  let old : Byte := keys[k / 8]?.getD 0
  keys.setIfInBounds (k / 8) (if down then old ||| mask else old &&& ~~~mask)

/-- `KeyDown(k)` (R11). -/
def State.keyDown (s : State) (k : Nat) : Bool := keyBit s.keys k

/-- The lowest-indexed pressed key, if any (43 R194). -/
def State.lowestKey (s : State) : Option Nat := (List.range keyCount).find? s.keyDown

/-- A timer's decrement, with its floor at zero (60 R321). -/
def countDown (t : Byte) : Byte := if t = 0 then 0 else t - 1

/-- `FrameBoundary()` (R321). -/
def State.frameBoundary (s : State) : State :=
  ((s.setDelay (countDown s.delay)).setSound (countDown s.sound)).setDisplayWaitLatch false

/-- `CadenceStep()` (R320). -/
def State.cadenceStep (s : State) : State :=
  if s.cadence + 1 = s.config.timerRatio then (s.setCadence 0).frameBoundary else s.setCadence (s.cadence + 1)

/-- The start of one instruction evaluation (10 R41, 00 R12): `ia` is set, and the next random byte is supplied. -/
def State.beginEval (s : State) (ia : Addr) : State :=
  { s with ia := ia, rnd := Config.rndByte s.evals, evals := s.evals + 1 }

end Sys2Proof.Machine
end

