-- ==== Sys2Proof/Machine/Operands.lean ====
section
/-! DEFINITION. Operand forms: register-indirect addresses through `I` (42 R169), the quirk-selected operands
(41 R139, 40 R108), register blocks, BCD digits, and the sprite's origin, rows and bytes (45 R242, R246, R250). -/

namespace Sys2Proof.Machine

/-- The effective address `I + k`, computed without a 12-bit wrap (R169, 20 R52). -/
def State.effAddr (s : State) (k : Nat) : Nat := s.index.toNat + k

/-- Whether an effective address lies outside memory (R52). -/
def outOfRange (a : Nat) : Bool := decide (memSize ≤ a)

/-- The operand of `8XY6`/`8XYE` (R139): `V[x]` when `shift_uses_vy` is enabled, `V[y]` by default (C1). -/
def State.shiftOperand (s : State) (x y : Nibble) : Byte :=
  if s.config.quirks.shiftUsesVy then s.reg x else s.reg y

/-- The offset register of `BNNN` (R108): `V[x]` with `x = nnn[11:8]` under `jump_uses_vx`, else `V[0]`. -/
def State.jumpOffset (s : State) (nnn : Addr) : Byte :=
  if s.config.quirks.jumpUsesVx then s.reg (nnn.extractLsb' 8 4) else s.reg 0x0

/-- An 8-bit value zero-extended to an address (30 R72). -/
def toAddr (b : Byte) : Addr := b.setWidth 12

/-- The registers `V0`..`Vx`, ascending (42 R178). -/
def regsUpTo (x : Nibble) : List Nibble := (List.range (x.toNat + 1)).map (BitVec.ofNat 4)

/-- The bytes of `V0`..`Vx`, ascending (R178). -/
def State.blockBytes (s : State) (x : Nibble) : List Byte := (regsUpTo x).map s.reg

/-- The register file after `for i in 0..x: V[i] <- MemRead(I + i, 1)` (R179). -/
def State.loadBlock (s : State) (x : Nibble) : Vector Byte 16 :=
  (regsUpTo x).foldl (fun v r => v.set r.toNat (s.mem.read (s.effAddr r.toNat)) r.isLt) s.v

/-- `I` after a block transfer (R178, R179): `a12(I + x + 1)` under `memory_increment`, else unchanged. -/
def State.indexAfterBlock (s : State) (x : Nibble) : Addr :=
  if s.config.quirks.memoryIncrement then s.index + x.setWidth 12 + 1 else s.index

/-- The three decimal digits of a byte, hundreds first (R177; PRESUMED order, notes/assumptions/13.md). -/
def bcdDigits (b : Byte) : List Byte :=
  [BitVec.ofNat 8 (b.toNat / 100), BitVec.ofNat 8 (b.toNat / 10 % 10), BitVec.ofNat 8 (b.toNat % 10)]

/-- The glyph address of `FX29` (R175): `a12(FONT_BASE + 5 * (V[x] & 0x0F))`. -/
def State.glyphAddr (s : State) (b : Byte) : Addr := s.config.fontBase + 5 * toAddr (b &&& 0x0F)

/-- The sprite's origin column `V[x] mod 64` (R242). -/
def State.originX (s : State) (x : Nibble) : Nat := (s.reg x).toNat % displayWidth

/-- The sprite's origin row `V[y] mod 32` (R242). -/
def State.originY (s : State) (y : Nibble) : Nat := (s.reg y).toNat % displayHeight

/-- The number of rows drawn (R246): `min(n, 32 - yy)` under `clipping`, else `n`. -/
def spriteRows (clipping : Bool) (n yy : Nat) : Nat := if clipping then min n (displayHeight - yy) else n

/-- The rows `DXYN` draws, from the register values before `VF` is written (R244 step 2). -/
def State.drawnRows (s : State) (y n : Nibble) : Nat :=
  spriteRows s.config.quirks.clipping n.toNat (s.originY y)

end Sys2Proof.Machine
end

