-- ==== Sys2Proof/Machine/Flags.lean ====
section
/-! DEFINITION. The flag `VF` (10_state.md R25): every value a flag-writing instruction puts there, computed from the
unmasked operands (41_registers_and_alu.md R129). -/

namespace Sys2Proof.Machine

/-- A flag's byte: 1 when set, 0 when clear. -/
def flagByte (b : Bool) : Byte := if b then 1 else 0

/-- The carry out of an addition, from the sum before masking (R137). -/
def carryOut (a b : Byte) : Bool := decide (0xFF < a.toNat + b.toNat)

/-- No borrow: the minuend is at least the subtrahend (R138, R141). -/
def noBorrow (minuend subtrahend : Byte) : Bool := decide (subtrahend.toNat ≤ minuend.toNat)

/-- The bit a right shift puts out: bit 0 (R140). -/
def bitOutRight (b : Byte) : Bool := b.getLsbD 0

/-- The bit a left shift puts out: bit 7 (R142). -/
def bitOutLeft (b : Byte) : Bool := b.getLsbD 7

/-- R133: the result is written to `V[x]` first and the flag to `VF` last, so that for `x = 15` the flag stands. -/
def State.setResultFlag (s : State) (x : Nibble) (result : Byte) (flag : Bool) : State :=
  (s.setReg x result).setVf (flagByte flag)

/-- R134-R136: the result to `V[x]`, and then `VF <- 0` only when `vf_reset` is enabled. -/
def State.setLogicResult (s : State) (x : Nibble) (result : Byte) : State :=
  if s.config.quirks.vfReset then s.setResultFlag x result false else s.setReg x result

end Sys2Proof.Machine
end

