-- ==== Sys2Proof/Machine/Alu.lean ====
section
/-! DEFINITION. Register loads, arithmetic and logic (41_registers_and_alu.md). Both operands are read before any
register is written (R133). -/

namespace Sys2Proof.Machine

/-- R130 `6XNN`: `V[x] <- nn`. -/
def execLdImm (x : Nibble) (nn : Byte) (s : State) : Host.Outcome State Fault Refusal := .next (s.setReg x nn)

/-- R131 `7XNN`: `V[x] <- trunc8(V[x] + nn)`, no flag. -/
def execAddImm (x : Nibble) (nn : Byte) (s : State) : Host.Outcome State Fault Refusal :=
  .next (s.setReg x (s.reg x + nn))

/-- R132 `8XY0`: `V[x] <- V[y]`. -/
def execLdReg (x y : Nibble) (s : State) : Host.Outcome State Fault Refusal := .next (s.setReg x (s.reg y))

/-- R134 `8XY1`. -/
def execOrReg (x y : Nibble) (s : State) : Host.Outcome State Fault Refusal :=
  .next (s.setLogicResult x (s.reg x ||| s.reg y))

/-- R135 `8XY2`. -/
def execAndReg (x y : Nibble) (s : State) : Host.Outcome State Fault Refusal :=
  .next (s.setLogicResult x (s.reg x &&& s.reg y))

/-- R136 `8XY3`. -/
def execXorReg (x y : Nibble) (s : State) : Host.Outcome State Fault Refusal :=
  .next (s.setLogicResult x (s.reg x ^^^ s.reg y))

/-- R137 `8XY4`: the masked sum, `VF` the carry. -/
def execAddReg (x y : Nibble) (s : State) : Host.Outcome State Fault Refusal :=
  .next (s.setResultFlag x (s.reg x + s.reg y) (carryOut (s.reg x) (s.reg y)))

/-- R138 `8XY5`: `V[x] - V[y]`, `VF` 1 when no borrow. -/
def execSub (x y : Nibble) (s : State) : Host.Outcome State Fault Refusal :=
  .next (s.setResultFlag x (s.reg x - s.reg y) (noBorrow (s.reg x) (s.reg y)))

/-- R140 `8XY6`: the operand of R139 shifted right, `VF` the bit shifted out. -/
def execShr (x y : Nibble) (s : State) : Host.Outcome State Fault Refusal :=
  .next (s.setResultFlag x (s.shiftOperand x y >>> 1) (bitOutRight (s.shiftOperand x y)))

/-- R141 `8XY7`: `V[y] - V[x]`, `VF` 1 when no borrow. -/
def execSubn (x y : Nibble) (s : State) : Host.Outcome State Fault Refusal :=
  .next (s.setResultFlag x (s.reg y - s.reg x) (noBorrow (s.reg y) (s.reg x)))

/-- R142 `8XYE`: the operand of R139 shifted left, `VF` the bit shifted out. -/
def execShl (x y : Nibble) (s : State) : Host.Outcome State Fault Refusal :=
  .next (s.setResultFlag x (s.shiftOperand x y <<< 1) (bitOutLeft (s.shiftOperand x y)))

/-- R144 `CXNN`: `V[x] <- rnd & nn`, `rnd` the byte supplied to this evaluation (10 R41). -/
def execRnd (x : Nibble) (nn : Byte) (s : State) : Host.Outcome State Fault Refusal :=
  .next (s.setReg x (s.rnd &&& nn))

end Sys2Proof.Machine
end

