-- ==== Sys2Proof/Machine/Control.lean ====
section
/-! DEFINITION. Clear-screen and control flow (40_clear_and_control_flow.md). While a meaning runs, `pc` already
holds the address after the instruction (R99). -/

namespace Sys2Proof.Machine

/-- R100 `00E0`: the display cleared, `dirty` set. -/
def execCls (s : State) : Host.Outcome State Fault Refusal :=
  .next ((s.setDisplay (Vector.replicate 256 0x00)).setDirty true)

/-- R101 `00EE`: `pc <- Pop()`; `STACK_UNDERFLOW` on an empty stack. -/
def execRet (s : State) : Host.Outcome State Fault Refusal :=
  match s.top with
  | none => .next (s.raise .stackUnderflow)
  | some a => .next (s.dropTop.setPc a)

/-- R102 `1NNN`: `pc <- nnn`. -/
def execJp (nnn : Addr) (s : State) : Host.Outcome State Fault Refusal := .next (s.setPc nnn)

/-- R103 `2NNN`: push the return address, `pc <- nnn`; `STACK_OVERFLOW` at an optional limit. -/
def execCall (nnn : Addr) (s : State) : Host.Outcome State Fault Refusal :=
  if s.stackFull then .next (s.raise .stackOverflow) else .next ((s.push s.pc).setPc nnn)

/-- R104 `3XNN`: skip if `V[x] = nn`. -/
def execSeImm (x : Nibble) (nn : Byte) (s : State) : Host.Outcome State Fault Refusal :=
  .next (s.skipIf (s.reg x == nn))

/-- R105 `4XNN`: skip if `V[x] != nn`. -/
def execSneImm (x : Nibble) (nn : Byte) (s : State) : Host.Outcome State Fault Refusal :=
  .next (s.skipIf (s.reg x != nn))

/-- R106 `5XY0`: skip if `V[x] = V[y]`. -/
def execSeReg (x y : Nibble) (s : State) : Host.Outcome State Fault Refusal :=
  .next (s.skipIf (s.reg x == s.reg y))

/-- R107 `9XY0`: skip if `V[x] != V[y]`. -/
def execSneReg (x y : Nibble) (s : State) : Host.Outcome State Fault Refusal :=
  .next (s.skipIf (s.reg x != s.reg y))

/-- R108 `BNNN`: `pc <- a12(nnn + off)`. -/
def execJpV0 (nnn : Addr) (s : State) : Host.Outcome State Fault Refusal :=
  .next (s.setPc (nnn + toAddr (s.jumpOffset nnn)))

end Sys2Proof.Machine
end

