-- ==== Sys2Proof/Machine/Display.lean ====
section
/-! DEFINITION. The packed-bitmap XOR blit and `DXYN` (45_display_blit.md). -/

namespace Sys2Proof.Machine

/-- A display bitmap with the collision seen so far: what the row loop of R244 step 5 carries. -/
structure Blit where
  display : Vector Byte 256
  collision : Bool
  deriving DecidableEq, Repr

/-- `DispByte(j)` (00 R11). -/
def dispByte (d : Vector Byte 256) (j : Nat) : Byte := d[j]?.getD 0

/-- The index of the byte in byte column `c` of row `r` (R240): `c + 8r`. -/
def dispIndex (c r : Nat) : Nat := c + displayWidth / 8 * r

/-- The pixel at column `px` of row `py` of a display bitmap (R240): bit `7 - (px mod 8)` of byte
`px div 8 + 8 py`. -/
def pixelOf (d : Vector Byte 256) (px py : Nat) : Bool :=
  (dispByte d (dispIndex (px / 8) py)).getLsbD (7 - px % 8)

/-- One XOR of a part into `DispByte(j)` and its collision (R247, R248). -/
def Blit.xorPart (b : Blit) (j : Nat) (p : Byte) : Blit where
  display := b.display.setIfInBounds j (dispByte b.display j ^^^ p)
  collision := b.collision || decide (dispByte b.display j &&& p ≠ 0)

/-- The part of a sprite byte in its first byte column (R247): `b >> off`. -/
def leftPart (b : Byte) (off : Nat) : Byte := b >>> off

/-- The part of a sprite byte in its second byte column (R247): `(b << (8 - off)) & 0xFF`. -/
def rightPart (b : Byte) (off : Nat) : Byte := b <<< (8 - off)

/-- One sprite row of R244 step 5: the two halves of byte `b` at pixel column `xx` of display row `r`; past the right
edge the second half is skipped under clipping and wraps to byte column 0 without it. -/
def Blit.row (clipping : Bool) (xx r : Nat) (b : Byte) (d : Blit) : Blit :=
  let d1 := d.xorPart (dispIndex (xx / 8) r) (leftPart b (xx % 8))
  if xx / 8 + 1 ≤ 7 ∨ clipping = false then
    d1.xorPart (dispIndex ((xx / 8 + 1) % 8) r) (rightPart b (xx % 8))
  else d1

/-- The row loop of R244 step 5: sprite bytes from row `i` on, each to display row `(yy + i) mod 32`. -/
def Blit.rows (clipping : Bool) (xx yy : Nat) : List Byte → Nat → Blit → Blit
  | [], _, d => d
  | b :: bs, i, d =>
    Blit.rows clipping xx yy bs (i + 1) (Blit.row clipping xx ((yy + i) % displayHeight) b d)

/-- The blit of `DXYN`: the drawn rows' bytes from `I` on (R250), XORed at the origin. -/
def State.blit (s : State) (x y n : Nibble) : Blit :=
  Blit.rows s.config.quirks.clipping (s.originX x) (s.originY y)
    (s.mem.readBytes (s.effAddr 0) (s.drawnRows y n)) 0 ⟨s.display, false⟩

/-- R245 step 1: whether the draw waits for the timer frame's end. -/
def State.drawWaits (s : State) : Bool := s.config.quirks.displayWait && s.displayWaitLatch

/-- R250: whether a row to be drawn lies at or beyond 4096. -/
def State.drawOutOfRange (s : State) (y n : Nibble) : Bool :=
  decide (0 < s.drawnRows y n) && outOfRange (s.effAddr (s.drawnRows y n - 1))

/-- R244 steps 2 to 6 of a draw that proceeds: the latch, `VF`, the display and `dirty`. -/
def State.draw (s : State) (x y n : Nibble) : State :=
  (((s.setDisplayWaitLatch (s.displayWaitLatch || s.config.quirks.displayWait)).setDisplay
    (s.blit x y n).display).setVf (flagByte (s.blit x y n).collision)).setDirty true

/-- R244 `DXYN`. -/
def execDrw (x y n : Nibble) (s : State) : Host.Outcome State Fault Refusal :=
  if s.drawWaits then .next s.rewindPc
  else if s.drawOutOfRange y n then .next (s.raise .memRange)
  else .next (s.draw x y n)

end Sys2Proof.Machine
end

