-- ==== Sys2Proof/Machine/Fallback.lean ====
section
/-! DEFINITION. The fallback no-op (44_dispatch_engines.md R229). -/

namespace Sys2Proof.Machine

/-- R229 `UNIMPL`: never mutates state; the fetch advance and the cadence step are the tick's. -/
def execUnimpl (_op : Opcode) (s : State) : Host.Outcome State Fault Refusal := .next s

end Sys2Proof.Machine
end

