-- ==== Sys2Proof/Machine/Index.lean ====
section
/-! DEFINITION. Index, timers, BCD and register blocks (42_index_timer_memory.md). A range check comes before the
first write (R169). -/

namespace Sys2Proof.Machine

/-- R170 `ANNN`: `I <- nnn`. -/
def execLdI (nnn : Addr) (s : State) : Host.Outcome State Fault Refusal := .next (s.setIndex nnn)

/-- R171 `FX07`: `V[x] <- DT`. -/
def execLdVDt (x : Nibble) (s : State) : Host.Outcome State Fault Refusal := .next (s.setReg x s.delay)

/-- R172 `FX15`: `DT <- V[x]`. -/
def execLdDtV (x : Nibble) (s : State) : Host.Outcome State Fault Refusal := .next (s.setDelay (s.reg x))

/-- R173 `FX18`: `ST <- V[x]`. -/
def execLdStV (x : Nibble) (s : State) : Host.Outcome State Fault Refusal := .next (s.setSound (s.reg x))

/-- R174 `FX1E`: `I <- a12(I + V[x])`, no flag. -/
def execAddI (x : Nibble) (s : State) : Host.Outcome State Fault Refusal :=
  .next (s.setIndex (s.index + toAddr (s.reg x)))

/-- R175 `FX29`: `I` to the glyph of the low digit of `V[x]`. -/
def execLdF (x : Nibble) (s : State) : Host.Outcome State Fault Refusal :=
  .next (s.setIndex (s.glyphAddr (s.reg x)))

/-- R177 `FX33`: the three decimal digits of `V[x]` at `I`, `I + 1`, `I + 2`. -/
def execLdB (x : Nibble) (s : State) : Host.Outcome State Fault Refusal :=
  if outOfRange (s.effAddr 2) then .next (s.raise .memRange)
  else .next (s.setMem (s.mem.writeBytes (s.effAddr 0) (bcdDigits (s.reg x))))

/-- R178 `FX55`: `V0`..`Vx` to memory at `I`. -/
def execStoreRegs (x : Nibble) (s : State) : Host.Outcome State Fault Refusal :=
  if outOfRange (s.effAddr x.toNat) then .next (s.raise .memRange)
  else .next ((s.setMem (s.mem.writeBytes (s.effAddr 0) (s.blockBytes x))).setIndex (s.indexAfterBlock x))

/-- R179 `FX65`: memory at `I` to `V0`..`Vx`. -/
def execLoadRegs (x : Nibble) (s : State) : Host.Outcome State Fault Refusal :=
  if outOfRange (s.effAddr x.toNat) then .next (s.raise .memRange)
  else .next ((s.setRegs (s.loadBlock x)).setIndex (s.indexAfterBlock x))

end Sys2Proof.Machine
end

