-- ==== Sys2Proof/Machine/Keys.lean ====
section
/-! DEFINITION. Key input (43_input.md). -/

namespace Sys2Proof.Machine

/-- A key skip: `KEY_RANGE` for a key number of 16 or more (R191), else a skip when the key's bit is `want`. -/
def keySkip (x : Nibble) (want : Bool) (s : State) : Host.Outcome State Fault Refusal :=
  if keyCount ≤ (s.reg x).toNat then .next (s.raise .keyRange)
  else .next (s.skipIf (s.keyDown (s.reg x).toNat == want))

/-- R192 `EX9E`: skip if key `V[x]` is down. -/
def execSkp (x : Nibble) (s : State) : Host.Outcome State Fault Refusal := keySkip x true s

/-- R193 `EXA1`: skip if key `V[x]` is up. -/
def execSknp (x : Nibble) (s : State) : Host.Outcome State Fault Refusal := keySkip x false s

/-- R194 `FX0A`: a pressed key is captured and the instruction retried; with no key pressed it completes if a key was
captured before, else it is retried (case order D13). -/
def execLdVK (x : Nibble) (s : State) : Host.Outcome State Fault Refusal :=
  match s.lowestKey with
  | some k => .next (((s.setReg x (BitVec.ofNat 8 k)).setKeyReleaseLatch true).rewindPc)
  | none => if s.keyReleaseLatch then .next (s.setKeyReleaseLatch false) else .next s.rewindPc

end Sys2Proof.Machine
end

