-- ==== Sys2Proof/Machine/Fetch.lean ====
section
/-! DEFINITION. Where a tick's instructions come from (44_dispatch_engines.md): memory under `direct`, the decode
cache, or the block cache; and placing an opcode where the next fetch reads it. -/

namespace Sys2Proof.Machine

/-- R212: the opcode at `pc`, when both of its bytes lie in memory. -/
def State.fetchDirect (s : State) : Option Opcode :=
  if memSize ≤ s.pc.toNat + 1 then none else some (opcodeAt s.mem s.pc.toNat)

/-- R215: the index `k` of the slot `START_ADDR + 2k` at this address, for an address at an even offset from
`START_ADDR`; whether the slot exists is the cache's length. -/
def slotIndex (c : Config) (a : Nat) : Option Nat :=
  if c.startAddr.toNat ≤ a ∧ (a - c.startAddr.toNat) % 2 = 0 then some ((a - c.startAddr.toNat) / 2) else none

/-- R216: the cached descriptor at `pc`, when `pc` is a slot. -/
def State.fetchCached (s : State) : Option Instr :=
  match slotIndex s.config s.pc.toNat with
  | some k => s.decodeCache[k]?
  | none => none

/-- R222: the thirteen terminators. -/
def isTerminator : Instr → Bool
  | .ret | .jp _ | .call _ | .seImm _ _ | .sneImm _ _ | .seReg _ _ | .sneReg _ _ | .jpV0 _ => true
  | .skp _ | .sknp _ | .ldVK _ | .drw _ _ _ | .storeRegs _ => true
  | .cls | .ldImm _ _ | .addImm _ _ | .ldReg _ _ | .orReg _ _ | .andReg _ _ | .xorReg _ _ | .addReg _ _ => false
  | .sub _ _ | .shr _ _ | .subn _ _ | .shl _ _ | .ldI _ | .rnd _ _ | .ldVDt _ | .ldDtV _ | .ldStV _ => false
  | .addI _ | .ldF _ | .ldB _ | .loadRegs _ | .unimpl _ => false

/-- R220's scan over the descriptors from the entry on: up to and including the first terminator, or to the last
slot. -/
def takeBlock : List Instr → List Instr
  | [] => []
  | i :: is => if isTerminator i then [i] else i :: takeBlock is

/-- R220 `BuildBlock(e)`: none when `e` is not a slot. -/
def State.buildBlock (s : State) (e : Nat) : Option (List Instr) :=
  match slotIndex s.config e with
  | none => none
  | some k =>
    match takeBlock (s.decodeCache.drop k) with
    | [] => none
    | b => some b

/-- The block cached for an entry address (R221). -/
def cachedBlock : List (Nat × List Instr) → Nat → Option (List Instr)
  | [], _ => none
  | (a, b) :: c, e => if e = a then some b else cachedBlock c e

/-- The block cache with a block stored, its addresses kept in rising order. -/
def storeBlock : List (Nat × List Instr) → Nat → List Instr → List (Nat × List Instr)
  | [], e, b => [(e, b)]
  | (a, b') :: c, e, b =>
    if e < a then (e, b) :: (a, b') :: c
    else if e = a then (e, b) :: c
    else (a, b') :: storeBlock c e b

/-- The block cache without the block of an entry address. -/
def forgetBlock : List (Nat × List Instr) → Nat → List (Nat × List Instr)
  | [], _ => []
  | (a, b) :: c, e => if e = a then c else (a, b) :: forgetBlock c e

/-- R223's fetch: the block at `pc`, with the block cache it leaves: the cached block, or one built on the first
visit. -/
def State.fetchBlock (s : State) : Option (List Instr × List (Nat × List Instr)) :=
  match cachedBlock s.blockCache s.pc.toNat with
  | some b => some (b, s.blockCache)
  | none =>
    match s.buildBlock s.pc.toNat with
    | some b => some (b, storeBlock s.blockCache s.pc.toNat b)
    | none => none

/-- The decode cache with the slot at this address holding the descriptor, when there is such a slot. -/
def placeDescriptor (c : Config) (cache : List Instr) (a : Nat) (i : Instr) : List Instr :=
  match slotIndex c a with
  | some k => cache.set k i
  | none => cache

/-- The state with an opcode stored where its next fetch reads it: the two bytes at `pc`; under the caching engines
also the slot's descriptor, and no cached block at `pc` (notes/assumptions/8.md). -/
def State.placeOpcode (s : State) (op : Opcode) : State :=
  let m := s.mem.writeBytes s.pc.toNat ((bytesOfOpcode op).take (memSize - s.pc.toNat))
  match s.config.engine with
  | .direct => { s with mem := m }
  | .decodeCache => { s with mem := m, decodeCache := placeDescriptor s.config s.decodeCache s.pc.toNat (decode op) }
  | .basicBlock =>
    { s with
      mem := m
      decodeCache := placeDescriptor s.config s.decodeCache s.pc.toNat (decode op)
      blockCache := forgetBlock s.blockCache s.pc.toNat }

end Sys2Proof.Machine
end

