-- ==== Sys2Proof/Machine/Tick.lean ====
section
/-! DEFINITION. One tick (44_dispatch_engines.md R211): Fetch, Decode, Execute, Tick-Clock, for each engine. -/

namespace Sys2Proof.Machine

/-- What follows an evaluation (R214): a cadence step when it completed, nothing when it faulted (60 R300). -/
def State.endEval (s : State) : State := if s.running then s.cadenceStep else s

/-- One instruction evaluation (R214): `ia` and the random byte supplied, the rule run, the cadence stepped. -/
def evalInstr (i : Instr) (ia : Addr) (s : State) : Host.Outcome State Fault Refusal :=
  match exec i (s.beginEval ia) with
  | .next t => .next t.endEval
  | .fault r => .fault r
  | .refused r => .refused r

/-- The instructions of a block in order (R223), `ia` advancing by 2; a fault ends the tick. -/
def runBlock : List Instr → Addr → State → Host.Outcome State Fault Refusal
  | [], _, s => .next s
  | i :: is, ia, s =>
    match evalInstr i ia s with
    | .next t => if t.running then runBlock is (ia + 2) t else .next t
    | .fault r => .fault r
    | .refused r => .refused r

/-- A fetch that fails (R212, R216, R220): the fault's recorded `ia` is `pc`, and `pc` stays. -/
def State.fetchFault (s : State) (code : FaultCode) : State := (s.setIa s.pc).raise code

/-- One tick of the `direct` engine (R212-R214). -/
def tickDirect (s : State) : Host.Outcome State Fault Refusal :=
  match s.fetchDirect with
  | none => .next (s.fetchFault .fetchRange)
  | some op => evalInstr (decode op) s.pc (s.setPc (s.pc + 2))

/-- One tick of the `decode_cache` engine (R216). -/
def tickCached (s : State) : Host.Outcome State Fault Refusal :=
  match s.fetchCached with
  | none => .next (s.fetchFault .cacheMiss)
  | some i => evalInstr i s.pc (s.setPc (s.pc + 2))

/-- The address after a block of `n` instructions entered at `e`: `a12(e + 2n)` (R223). -/
def blockEnd (e : Addr) (n : Nat) : Addr := e + BitVec.ofNat 12 (2 * n)

/-- One tick of the `basic_block` engine (R223): `pc` advances by the block's length before its first instruction. -/
def tickBlock (s : State) : Host.Outcome State Fault Refusal :=
  match s.fetchBlock with
  | none => .next (s.fetchFault .cacheMiss)
  | some (b, c) => runBlock b s.pc ((s.setBlockCache c).setPc (blockEnd s.pc b.length))

/-- One tick (R211): a faulted core changes nothing; else one unit of work of the engine (R210). -/
def tick (s : State) : Host.Outcome State Fault Refusal :=
  match s.halted with
  | .faulted _ _ => .next s
  | .running =>
    match s.config.engine with
    | .direct => tickDirect s
    | .decodeCache => tickCached s
    | .basicBlock => tickBlock s

end Sys2Proof.Machine
end

