-- ==== Sys2Proof/Machine/HostOps.lean ====
section
/-! DEFINITION. The block's interface beside `Tick` (10_state.md R40, 60_exceptions.md R340-R342): what the host may do
between ticks, and construction (70_reset_and_hazards.md R400). -/

namespace Sys2Proof.Machine

/-- `Construct(...)` (R400): a machine in its reset state, or a refusal when a check of R403 fails. -/
def State.construct (c : Config) : Host.Outcome State Fault Refusal :=
  if validConfig c then .next (State.initial c) else .refused .invalidConstruction

/-- `KeySet(k, down)`: key bit `k` becomes `down`. -/
def State.keySet (s : State) (k : Nibble) (down : Bool) : State := s.setKeys (setKeyBit s.keys k.toNat down)

/-- `ReadDisplay()`. -/
def State.readDisplay (s : State) : Vector Byte 256 := s.display

/-- `ReadDirty()`. -/
def State.readDirty (s : State) : Bool := s.dirty

/-- `ClearDirty()`. -/
def State.clearDirty (s : State) : State := s.setDirty false

/-- `ReadTimers()`: `(DT, ST)`. -/
def State.readTimers (s : State) : Byte × Byte := (s.delay, s.sound)

/-- `SoundActive()` (60 R323). -/
def State.soundActive (s : State) : Bool := decide (s.sound ≠ 0)

/-- `ReadHalted()`. -/
def State.readHalted (s : State) : Halted := s.halted

/-- The numeric code of a fault, as the host reads it (60 R301; the numbering is the spec's own, D21). -/
def FaultCode.number : FaultCode → Nat
  | .stackUnderflow => 1
  | .stackOverflow => 2
  | .memRange => 3
  | .fetchRange => 4
  | .keyRange => 5
  | .cacheMiss => 6

/-- The host's moves that change the state between ticks (R340, R341): there are no others. -/
inductive HostMove where
  | keySet (k : Nibble) (down : Bool)
  | clearDirty
  deriving DecidableEq, Repr

/-- A host move applied between two ticks. -/
def State.hostMove (s : State) : HostMove → State
  | .keySet k down => s.keySet k down
  | .clearDirty => s.clearDirty

/-- The pixel the host reads at column `px` of row `py` (45 R240). -/
def State.pixel (s : State) (px py : Nat) : Bool := pixelOf s.display px py

end Sys2Proof.Machine
end

