-- ==== Sys2Proof/Safety.lean ====
section
/-! DEFINITION. The terms in which claims about the machine are stated: the invariant of every constructed machine,
and what a state keeps of another. -/

namespace Sys2Proof.Safety

open Sys2Proof.Machine

/-- The decode cache is what construction built for this machine's parameters (10_state.md R38, 44 R215). -/
def CacheAsBuilt (s : State) : Prop := s.decodeCache = initialDecodeCache s.config

/-- Entry addresses of the block cache rise strictly. -/
def blocksSorted : Nat → List (Nat × List Instr) → Bool
  | _, [] => true
  | lo, (a, _) :: c => decide (lo ≤ a) && blocksSorted (a + 1) c

/-- Every cached block is the one `BuildBlock` makes at its entry address (44 R220, R221). -/
def BlocksAsBuilt (s : State) : Prop :=
  blocksSorted 0 s.blockCache = true ∧ ∀ e b, cachedBlock s.blockCache e = some b → s.buildBlock e = some b

/-- The call stack is within the optional limit (60 R303). -/
def StackWithinLimit (s : State) : Prop := ∀ l, s.config.stackLimit = some l → s.stack.length ≤ l

/-- The cadence counter is in 0..`TIMER_RATIO` - 1 (10 R33). -/
def CadenceInFrame (s : State) : Prop := s.cadence < s.config.timerRatio

/-- The invariant of a machine: the parameters pass R403, memory is canonical, the cadence is inside its frame, the
stack within its limit, and the caches hold what R215 and R220 build. -/
structure MachineInv (s : State) : Prop where
  config : validConfig s.config = true
  memory : s.mem.wf = true
  cadence : CadenceInFrame s
  stack : StackWithinLimit s
  cache : CacheAsBuilt s
  blocks : BlocksAsBuilt s

/-- Every byte of memory reads as before. -/
def SameMemory (s t : State) : Prop := ∀ a, t.mem.read a = s.mem.read a

/-- Every byte of memory outside the `n` bytes from `a` on reads as before. -/
def SameMemoryOutside (a n : Nat) (s t : State) : Prop := ∀ b, (b < a ∨ a + n ≤ b) → t.mem.read b = s.mem.read b

/-- Every register but those of a list is as before. -/
def SameRegsBut (rs : List Nibble) (s t : State) : Prop := ∀ r, r ∉ rs → t.reg r = s.reg r

/-- The conditions of R403 on the construction parameters, one by one. -/
structure Constructible (c : Config) : Prop where
  startEven : c.startAddr.toNat % 2 = 0
  romFits : c.startAddr.toNat + c.rom.length ≤ 4096
  fontFits : c.fontBase.toNat + 80 ≤ 4096
  apart : ∀ a, c.fontBase.toNat ≤ a → a < c.fontBase.toNat + 80 → c.startAddr.toNat ≤ a →
    c.startAddr.toNat + c.rom.length ≤ a
  ratio : 1 ≤ c.timerRatio
  limit : ∀ l, c.stackLimit = some l → 1 ≤ l

/-- The machine with another engine selected, all else as it is: for comparing the strategies (44 R227). -/
def withEngine (s : State) (e : Engine) : State := { s with config := { s.config with engine := e } }

/-- The rows a draw shows (45 R246): all `n`, or under clipping those above the bottom edge. -/
def shownRows (s : State) (y n : Nibble) : Nat :=
  if s.config.quirks.clipping then min n.toNat (32 - (s.reg y).toNat % 32) else n.toNat

/-- A draw that neither waits (45 R245) nor reads outside memory (45 R250). -/
def DrawProceeds (s : State) (y n : Nibble) : Prop :=
  ¬ (s.config.quirks.displayWait = true ∧ s.displayWaitLatch = true) ∧
  ¬ (0 < shownRows s y n ∧ 4096 ≤ s.index.toNat + shownRows s y n - 1)

/-- The sprite's pixel that a draw puts at column `px` of row `py` (45 R242, R246, R247): with the origin reduced
modulo the display, the pixel `dx` to the right of it and `dy` below it, counted around the edges, is bit `7 - dx` of
the byte at `I + dy`; under clipping a pixel that would pass the right or the bottom edge is not drawn. -/
def spritePixel (s : State) (x y n : Nibble) (px py : Nat) : Bool :=
  let xx := (s.reg x).toNat % 64
  let yy := (s.reg y).toNat % 32
  let dx := (px + 64 - xx) % 64
  let dy := (py + 32 - yy) % 32
  decide (dx < 8) && decide (dy < n.toNat) &&
    (!s.config.quirks.clipping || (decide (xx + dx < 64) && decide (yy + dy < 32))) &&
    (s.mem.read (s.index.toNat + dy)).getLsbD (7 - dx)

end Sys2Proof.Safety
end

