-- ==== Sys2Proof/Certificates/Slice0/Obligations.lean ====
section
/-! DEFINITION. The statements about the model, for the provers. Each docstring says which text of spec/ it formalises. -/

open Sys2Proof Sys2Proof.Machine Sys2Proof.Safety

/-! ## The decoder (30_encoding.md) -/

/-- R71: the operand fields and the top digit (its name `op4` is decision D2) are fixed bits of the opcode, and the
descriptor keeps the raw opcode. -/
def Obligations.FieldsByBitPosition : Prop :=
  ∀ op : Opcode,
    (fieldsOf op).x.toNat = op.toNat / 2 ^ 8 % 16 ∧ (fieldsOf op).y.toNat = op.toNat / 2 ^ 4 % 16 ∧
    (fieldsOf op).n.toNat = op.toNat % 16 ∧ (fieldsOf op).nn.toNat = op.toNat % 256 ∧
    (fieldsOf op).nnn.toNat = op.toNat % 4096 ∧ (op4 op).toNat = op.toNat / 2 ^ 12 ∧ (fieldsOf op).op = op

/-- R73: the first row of the pattern table that admits an opcode builds its instruction; when none does, it is the fallback,
which never mutates state; a constant digit of a pattern must equal the opcode's digit, a wildcard admits any. -/
def Obligations.FirstMatchingPatternDecides : Prop :=
  ∀ op : Opcode,
    (∀ (before after : List Row) (r : Row), opcodeMap = before ++ r :: after →
      (∀ q ∈ before, q.pattern.admits op = false) → r.pattern.admits op = true → decode op = r.build (fieldsOf op)) ∧
    ((∀ r ∈ opcodeMap, r.pattern.admits op = false) →
      decode op = .unimpl op ∧ ∀ s : State, exec (.unimpl op) s = .next s) ∧
    (∀ p : Pattern, p.admits op = true ↔
      (∀ c, p.d3 = .hex c → c.toNat = op.toNat / 4096) ∧ (∀ c, p.d2 = .hex c → c.toNat = op.toNat / 256 % 16) ∧
      (∀ c, p.d1 = .hex c → c.toNat = op.toNat / 16 % 16) ∧ (∀ c, p.d0 = .hex c → c.toNat = op.toNat % 16))

/-- The opcode map of 30_encoding.md section 2, row by row by its mask and match columns, and the fallback for every
opcode that matches no row. The patterns are the spec's decision D2 (PRESUMED, notes/assumptions/12.md). -/
def Obligations.DecodeFollowsOpcodeMap : Prop :=
  ∀ op : Opcode, ∀ x y n : Nibble, ∀ nn : Byte, ∀ nnn : Addr,
    x = (fieldsOf op).x → y = (fieldsOf op).y → n = (fieldsOf op).n → nn = (fieldsOf op).nn → nnn = (fieldsOf op).nnn →
    (op = 0x00E0 → decode op = .cls) ∧
    (op = 0x00EE → decode op = .ret) ∧
    (op &&& 0xF000 = 0x1000 → decode op = .jp nnn) ∧
    (op &&& 0xF000 = 0x2000 → decode op = .call nnn) ∧
    (op &&& 0xF000 = 0x3000 → decode op = .seImm x nn) ∧
    (op &&& 0xF000 = 0x4000 → decode op = .sneImm x nn) ∧
    (op &&& 0xF00F = 0x5000 → decode op = .seReg x y) ∧
    (op &&& 0xF000 = 0x6000 → decode op = .ldImm x nn) ∧
    (op &&& 0xF000 = 0x7000 → decode op = .addImm x nn) ∧
    (op &&& 0xF00F = 0x8000 → decode op = .ldReg x y) ∧
    (op &&& 0xF00F = 0x8001 → decode op = .orReg x y) ∧
    (op &&& 0xF00F = 0x8002 → decode op = .andReg x y) ∧
    (op &&& 0xF00F = 0x8003 → decode op = .xorReg x y) ∧
    (op &&& 0xF00F = 0x8004 → decode op = .addReg x y) ∧
    (op &&& 0xF00F = 0x8005 → decode op = .sub x y) ∧
    (op &&& 0xF00F = 0x8006 → decode op = .shr x y) ∧
    (op &&& 0xF00F = 0x8007 → decode op = .subn x y) ∧
    (op &&& 0xF00F = 0x800E → decode op = .shl x y) ∧
    (op &&& 0xF00F = 0x9000 → decode op = .sneReg x y) ∧
    (op &&& 0xF000 = 0xA000 → decode op = .ldI nnn) ∧
    (op &&& 0xF000 = 0xB000 → decode op = .jpV0 nnn) ∧
    (op &&& 0xF000 = 0xC000 → decode op = .rnd x nn) ∧
    (op &&& 0xF000 = 0xD000 → decode op = .drw x y n) ∧
    (op &&& 0xF0FF = 0xE09E → decode op = .skp x) ∧
    (op &&& 0xF0FF = 0xE0A1 → decode op = .sknp x) ∧
    (op &&& 0xF0FF = 0xF007 → decode op = .ldVDt x) ∧
    (op &&& 0xF0FF = 0xF00A → decode op = .ldVK x) ∧
    (op &&& 0xF0FF = 0xF015 → decode op = .ldDtV x) ∧
    (op &&& 0xF0FF = 0xF018 → decode op = .ldStV x) ∧
    (op &&& 0xF0FF = 0xF01E → decode op = .addI x) ∧
    (op &&& 0xF0FF = 0xF029 → decode op = .ldF x) ∧
    (op &&& 0xF0FF = 0xF033 → decode op = .ldB x) ∧
    (op &&& 0xF0FF = 0xF055 → decode op = .storeRegs x) ∧
    (op &&& 0xF0FF = 0xF065 → decode op = .loadRegs x) ∧
    (unassigned op = true → decode op = .unimpl op)

/-- Decoding the word of a well-formed instruction gives it back: no operand bit of any of the 35 forms is lost. The
patterns are the spec's decision D2 (PRESUMED, notes/assumptions/12.md). -/
def Obligations.DecodeOfEncodeIsIdentity : Prop := ∀ i : Instr, i.WellFormed → decode (encode i) = i

/-- The other direction: every one of the 65536 opcodes is the word of the instruction it decodes to, and what the
decoder gives is well formed. The patterns are the spec's decision D2 (PRESUMED, notes/assumptions/12.md). -/
def Obligations.EncodeOfDecodeIsIdentity : Prop :=
  ∀ op : Opcode, encode (decode op) = op ∧ (decode op).WellFormed

/-- 30_encoding.md section 2: exactly one of the 34 rows matches an opcode, or none, and then the opcode is one of the
unassigned ones its section 3 lists. The patterns are the spec's decision D2 (PRESUMED, notes/assumptions/12.md). -/
def Obligations.OpcodeMatchesAtMostOneRow : Prop :=
  ∀ op : Opcode,
    (opcodeMap.filter (fun r => r.pattern.admits op)).length = if unassigned op = true then 0 else 1

/-- A word of each of the 34 rows and of the fallback, those of the decoder's vectors (95_test_vectors.md section 2.1) among
them. Their patterns, but for those the source names, are the spec's decision D2 (PRESUMED, notes/assumptions/12.md). -/
def Obligations.DecodedWordsOfEveryRow : Prop :=
  decode 0x00E0 = .cls ∧ decode 0x00EE = .ret ∧ decode 0x1ABC = .jp 0xABC ∧ decode 0x2000 = .call 0x000 ∧
  decode 0x3A7F = .seImm 0xA 0x7F ∧ decode 0x4310 = .sneImm 3 0x10 ∧ decode 0x5120 = .seReg 1 2 ∧
  decode 0x6FFF = .ldImm 0xF 0xFF ∧ decode 0x7F01 = .addImm 0xF 0x01 ∧ decode 0x8120 = .ldReg 1 2 ∧
  decode 0x8121 = .orReg 1 2 ∧ decode 0x8122 = .andReg 1 2 ∧ decode 0x8123 = .xorReg 1 2 ∧
  decode 0x8124 = .addReg 1 2 ∧ decode 0x8125 = .sub 1 2 ∧ decode 0x8126 = .shr 1 2 ∧ decode 0x8127 = .subn 1 2 ∧
  decode 0x812E = .shl 1 2 ∧ decode 0x9120 = .sneReg 1 2 ∧ decode 0xA300 = .ldI 0x300 ∧ decode 0xB3C4 = .jpV0 0x3C4 ∧
  decode 0xC30F = .rnd 3 0x0F ∧ decode 0xD12F = .drw 1 2 0xF ∧ decode 0xE19E = .skp 1 ∧ decode 0xE1A1 = .sknp 1 ∧
  decode 0xF307 = .ldVDt 3 ∧ decode 0xF10A = .ldVK 1 ∧ decode 0xF015 = .ldDtV 0 ∧ decode 0xF518 = .ldStV 5 ∧
  decode 0xF21E = .addI 2 ∧ decode 0xF029 = .ldF 0 ∧ decode 0xFA33 = .ldB 0xA ∧ decode 0xF255 = .storeRegs 2 ∧
  decode 0xF265 = .loadRegs 2 ∧ decode 0x0000 = .unimpl 0x0000 ∧ decode 0x00E1 = .unimpl 0x00E1 ∧
  decode 0x0123 = .unimpl 0x0123 ∧ decode 0x5121 = .unimpl 0x5121 ∧ decode 0x8128 = .unimpl 0x8128 ∧
  decode 0x812F = .unimpl 0x812F ∧ decode 0x912E = .unimpl 0x912E ∧ decode 0xE19F = .unimpl 0xE19F ∧
  decode 0xF130 = .unimpl 0xF130 ∧ decode 0xF175 = .unimpl 0xF175 ∧ decode 0xFF00 = .unimpl 0xFF00 ∧
  decode 0xFFFF = .unimpl 0xFFFF

/-! ## Construction and reset (70_reset_and_hazards.md) -/

/-- 70_reset_and_hazards.md section 1, the construction checks (decision D24): a machine exactly when all of them hold,
else the construction is refused. -/
def Obligations.ConstructionChecks : Prop :=
  ∀ c : Config,
    (Constructible c → State.construct c = .next (State.initial c)) ∧
    (¬ Constructible c → State.construct c = .refused .invalidConstruction)

/-- The reset value of every state element (70_reset_and_hazards.md section 1, table; decisions D4, D5, D18, D21; log
entries 4, 5, 16): memory and the decode cache as construction computes them from the parameters; the clauses on `ia`,
`rnd`, `evals` are the model's choice (notes/assumptions/6.md). -/
def Obligations.ConstructionResetValues : Prop :=
  ∀ (c : Config) (s : State), State.construct c = .next s →
    (∀ r, s.reg r = 0x00) ∧ s.pc = c.startAddr ∧ s.index = 0x000 ∧ s.stack = [] ∧ s.delay = 0 ∧ s.sound = 0 ∧
    s.displayWaitLatch = false ∧ s.keyReleaseLatch = false ∧ s.dirty = false ∧ s.config = c ∧ s.cadence = 0 ∧
    s.halted = .running ∧ (∀ px py, s.pixel px py = false) ∧ (∀ k, s.keyDown k = false) ∧ s.blockCache = [] ∧
    s.mem = initialMemory c ∧ s.decodeCache = initialDecodeCache c ∧
    s.ia = c.startAddr ∧ s.rnd = 0x00 ∧ s.evals = 0

/-- Memory at reset (70_reset_and_hazards.md section 1; decision D5): the font at `FONT_BASE`, the ROM at `START_ADDR`,
0x00 elsewhere. -/
def Obligations.ConstructionLoadsMemory : Prop :=
  ∀ (c : Config) (s : State), State.construct c = .next s →
    (∀ k (h : k < 80), s.mem.read (c.fontBase.toNat + k) = c.fontData[k]) ∧
    (∀ k (h : k < c.rom.length), s.mem.read (c.startAddr.toNat + k) = c.rom[k]) ∧
    (∀ a, (a < c.fontBase.toNat ∨ c.fontBase.toNat + 80 ≤ a) →
      (a < c.startAddr.toNat ∨ c.startAddr.toNat + c.rom.length ≤ a) → s.mem.read a = 0x00)

/-- The decode cache at construction (44_dispatch_engines.md section 3; decision D18): under the caching engines the slot
`START_ADDR + 2k` exists exactly when `2k < length(ROM)` and holds the descriptor of its two bytes, the lower address
on top (PRESUMED, G1, notes/assumptions/11.md); under `direct` there is no cache. -/
def Obligations.ConstructionBuildsDecodeCache : Prop :=
  ∀ (c : Config) (s : State), State.construct c = .next s →
    (c.engine = .direct → s.decodeCache = []) ∧
    (c.engine ≠ .direct → ∀ k,
      s.decodeCache[k]? =
        if 2 * k < c.rom.length then
          some (decode (BitVec.ofNat 16
            (256 * (s.mem.read (c.startAddr.toNat + 2 * k)).toNat + (s.mem.read (c.startAddr.toNat + 2 * k + 1)).toNat)))
        else none)

/-- `State.reset` is a construction, with the spec's defaults (10_state.md R32, 00_scope.md R6) and with the model's
choice of `FONT_BASE`, `ENGINE`, `TIMER_RATIO` and `ROM` (notes/assumptions/3.md). -/
def Obligations.ResetIsTheDefaultConstruction : Prop :=
  State.construct defaultConfig = .next State.reset ∧
  State.reset.config.quirks = quirksOfBits 0b001111 ∧ State.reset.pc = 0x200 ∧ State.reset.config.stackLimit = none ∧
  State.reset.config.fontBase = 0x050 ∧ State.reset.config.engine = .direct ∧ State.reset.config.timerRatio = 10 ∧
  State.reset.config.rom = []

/-! ## The invariant -/

/-- The invariant of a machine holds at reset. -/
def Obligations.ResetMeetsInvariant : Prop := MachineInv State.reset

/-- The invariant holds for every machine the host can construct. -/
def Obligations.EveryConstructionMeetsInvariant : Prop :=
  ∀ (c : Config) (s : State), State.construct c = .next s → MachineInv s

/-- Every step keeps the invariant, under every engine and from every state that meets it: memory stays canonical, the
cadence in 0..`TIMER_RATIO`-1 (10_state.md R33), the stack within its limit (60 R303), and the caches what R215 and R220
build (44 R221). -/
def Obligations.EveryStepKeepsInvariant : Prop :=
  ∀ s t : State, MachineInv s → step s = .next t → MachineInv t

/-- The host's moves between ticks (10_state.md section 8, 60_exceptions.md section 5): a key write sets that key's bit
and leaves the others, `ClearDirty` clears `dirty`, nothing else changes, and the invariant is kept; `SoundActive` is
`ST != 0`. -/
def Obligations.HostMovesChangeKeysAndDirtyAlone : Prop :=
  ∀ s : State,
    (∀ (k : Nibble) (down : Bool) (j : Nat), j < 16 →
      (s.keySet k down).keyDown j = if j = k.toNat then down else s.keyDown j) ∧
    (∀ (k : Nibble) (down : Bool), s.keySet k down = { s with keys := (s.keySet k down).keys }) ∧
    s.clearDirty = { s with dirty := false } ∧
    (s.soundActive = true ↔ s.sound ≠ 0) ∧
    (∀ m : HostMove, MachineInv s → MachineInv (s.hostMove m))

/-! ## The tick (44_dispatch_engines.md, 60_exceptions.md) -/

/-- 44_dispatch_engines.md section 2 (decision D3): under `direct`, when the two bytes at `pc` decode to `i`, a step is
`exec i` with `pc` advanced by 2, `ia` the fetched address and the next random byte supplied, and then, when it completed,
one cadence step. That the byte at the lower address is the top one is general knowledge (20_memory.md section 2, G1;
PRESUMED, notes/assumptions/11.md); the fields `ia`, `rnd`, `evals` and the free byte are the model's choice
(notes/assumptions/6.md, 7.md). -/
def Obligations.DirectStepRunsDecodedInstruction : Prop :=
  ∀ (s : State) (i : Instr),
    s.halted = .running → s.config.engine = .direct → s.pc.toNat + 1 < 4096 →
    decode (BitVec.ofNat 16 (256 * (s.mem.read s.pc.toNat).toNat + (s.mem.read (s.pc.toNat + 1)).toNat)) = i →
    step s =
      match exec i { s with pc := s.pc + 2, ia := s.pc, rnd := Config.rndByte s.evals, evals := s.evals + 1 } with
      | .next t => .next (if t.halted = .running then t.cadenceStep else t)
      | .fault r => .fault r
      | .refused r => .refused r

/-- 44_dispatch_engines.md section 3: under `decode_cache`, when `pc` is the slot `START_ADDR + 2k` and its descriptor is
`i`, a step runs `i` as under `direct` (decision D3), whatever the bytes at `pc` now hold. The fields `ia`, `rnd`, `evals`
and the free byte are the model's choice (notes/assumptions/6.md, 7.md). -/
def Obligations.CachedStepRunsCachedInstruction : Prop :=
  ∀ (s : State) (i : Instr) (k : Nat),
    s.halted = .running → s.config.engine = .decodeCache → s.pc.toNat = s.config.startAddr.toNat + 2 * k →
    s.decodeCache[k]? = some i →
    step s =
      match exec i { s with pc := s.pc + 2, ia := s.pc, rnd := Config.rndByte s.evals, evals := s.evals + 1 } with
      | .next t => .next (if t.halted = .running then t.cadenceStep else t)
      | .fault r => .fault r
      | .refused r => .refused r

/-- 44_dispatch_engines.md section 4 (decision D20): under `basic_block` a step runs the block at `pc`, the cached one or,
when there is none, the one built and then stored for that address; `pc` advances by the block's length first; each
instruction runs with its own `ia`, a cadence step after it, and the next one only while the core runs. The fields `ia`,
`rnd`, `evals`, the free byte and the sorted cache are the model's choice (notes/assumptions/6.md, 7.md, 14.md). -/
def Obligations.BlockStepRunsTheBlock : Prop :=
  (∀ (s : State) (b : List Instr) (c : List (Nat × List Instr)),
    s.halted = .running → s.config.engine = .basicBlock →
    (cachedBlock s.blockCache s.pc.toNat = some b ∧ c = s.blockCache ∨
      cachedBlock s.blockCache s.pc.toNat = none ∧ s.buildBlock s.pc.toNat = some b ∧
        c = storeBlock s.blockCache s.pc.toNat b) →
    step s = runBlock b s.pc { s with blockCache := c, pc := s.pc + BitVec.ofNat 12 (2 * b.length) }) ∧
  (∀ (ia : Addr) (s : State), runBlock [] ia s = .next s) ∧
  (∀ (i : Instr) (is : List Instr) (ia : Addr) (s : State),
    runBlock (i :: is) ia s =
      match exec i { s with ia := ia, rnd := Config.rndByte s.evals, evals := s.evals + 1 } with
      | .next t => if t.halted = .running then runBlock is (ia + 2) t.cadenceStep else .next t
      | .fault r => .fault r
      | .refused r => .refused r) ∧
  (∀ (c : List (Nat × List Instr)) (e a : Nat) (b : List Instr), blocksSorted 0 c = true →
    cachedBlock (storeBlock c e b) a = if a = e then some b else cachedBlock c a)

/-- 60_exceptions.md section 1 (decisions D9, D18): a fetch at 0xFFF under `direct` records `FETCH_RANGE`, and under the
caching engines a fetch that finds no slot (and no cached block) records `CACHE_MISS`, both with `ia = pc`; nothing else
changes, `pc` included. -/
def Obligations.FailedFetchRecordsItsFault : Prop :=
  ∀ s : State, s.halted = .running →
    (s.config.engine = .direct → s.pc = 0xFFF →
      step s = .next { s with ia := s.pc, halted := .faulted .fetchRange s.pc }) ∧
    (s.config.engine = .decodeCache →
      (∀ k, s.pc.toNat = s.config.startAddr.toNat + 2 * k → s.decodeCache.length ≤ k) →
      step s = .next { s with ia := s.pc, halted := .faulted .cacheMiss s.pc }) ∧
    (s.config.engine = .basicBlock → cachedBlock s.blockCache s.pc.toNat = none →
      (∀ k, s.pc.toNat = s.config.startAddr.toNat + 2 * k → s.decodeCache.length ≤ k) →
      step s = .next { s with ia := s.pc, halted := .faulted .cacheMiss s.pc })

/-- 60_exceptions.md section 1 (decision D21): once faulted, a tick changes nothing. -/
def Obligations.FaultedCoreChangesNothing : Prop :=
  ∀ (s : State) (code : FaultCode) (ia : Addr), s.halted = .faulted code ia → step s = .next s

/-- No instruction of the 35 forms stops the model, in any state, and no tick does: a spec fault is a recorded one
(60_exceptions.md section 1, notes/assumptions/1.md), and every opcode has a rule or is the no-op (30_encoding.md R75,
R76). -/
def Obligations.EveryInstructionAndTickAnswersNext : Prop :=
  (∀ (i : Instr) (s : State), ∃ t, exec i s = .next t) ∧ (∀ s : State, ∃ t, step s = .next t)

/-- 60_exceptions.md section 1 (decision D21): an instruction that faults makes none of its writes; it records its code
with its own address `ia`, and only the instructions of the fault table fault, each with its own code. -/
def Obligations.FaultingInstructionWritesItsRecordAlone : Prop :=
  ∀ (i : Instr) (s t : State), s.halted = .running → exec i s = .next t → t.halted ≠ .running →
    ∃ code, t = { s with halted := .faulted code s.ia } ∧
      ((i = .ret ∧ code = .stackUnderflow) ∨ (∃ a, i = .call a ∧ code = .stackOverflow) ∨
        (∃ x y n, i = .drw x y n ∧ code = .memRange) ∨ (∃ x, i = .ldB x ∧ code = .memRange) ∨
        (∃ x, i = .storeRegs x ∧ code = .memRange) ∨ (∃ x, i = .loadRegs x ∧ code = .memRange) ∨
        (∃ x, i = .skp x ∧ code = .keyRange) ∨ (∃ x, i = .sknp x ∧ code = .keyRange))

/-- 60_exceptions.md section 1 (decision D21): a one-instruction tick that faults takes no cadence step and leaves every
register, `I`, stack, timer, latch, display, key and memory byte as it was; the recorded `ia` is the address fetched
from. -/
def Obligations.FaultingTickTakesNoCadenceStep : Prop :=
  ∀ s t : State, s.halted = .running → s.config.engine ≠ .basicBlock → step s = .next t → t.halted ≠ .running →
    t = { s with pc := t.pc, ia := t.ia, rnd := t.rnd, evals := t.evals, halted := t.halted } ∧
    ∃ code, t.halted = .faulted code s.pc

/-- 60_exceptions.md section 3 (decisions D14, D15): the cadence step, and the frame boundary that decrements each
nonzero timer, floors at zero and clears the display-wait latch; nothing else changes. -/
def Obligations.CadenceStepAndFrameBoundary : Prop :=
  ∀ s : State,
    (s.cadence + 1 = s.config.timerRatio →
      s.cadenceStep.cadence = 0 ∧ s.cadenceStep.delay.toNat = s.delay.toNat - 1 ∧
      s.cadenceStep.sound.toNat = s.sound.toNat - 1 ∧ s.cadenceStep.displayWaitLatch = false ∧
      s.cadenceStep = { s with cadence := 0, delay := s.cadenceStep.delay, sound := s.cadenceStep.sound, displayWaitLatch := false }) ∧
    (s.cadence + 1 ≠ s.config.timerRatio → s.cadenceStep = { s with cadence := s.cadence + 1 })

/-- 60_exceptions.md section 3: from `cadence = 0`, after `k * R` cadence steps each timer has decreased by `k`, not
below zero, and the counter is at 0 again: the k-th frame boundary ends the `(k * R)`-th step. -/
def Obligations.TimersCountDownOncePerFrame : Prop :=
  ∀ (s : State) (k : Nat), s.cadence = 0 → 1 ≤ s.config.timerRatio →
    ((State.cadenceStep)^[k * s.config.timerRatio] s).cadence = 0 ∧
    ((State.cadenceStep)^[k * s.config.timerRatio] s).delay.toNat = s.delay.toNat - k ∧
    ((State.cadenceStep)^[k * s.config.timerRatio] s).sound.toNat = s.sound.toNat - k

/-! ## The engines -/

/-- 44_dispatch_engines.md section 5 (first two conditions of R227): where `pc` is a slot whose bytes still decode to its
descriptor, a `decode_cache` tick and a `direct` tick give the same Machine State. The byte order of the fetch is PRESUMED
(G1, notes/assumptions/11.md). -/
def Obligations.FreshCachedTickEqualsDirectTick : Prop :=
  ∀ (s : State) (k : Nat),
    s.halted = .running → s.config.engine = .decodeCache → s.pc.toNat = s.config.startAddr.toNat + 2 * k →
    s.pc.toNat + 1 < 4096 → s.decodeCache[k]? = some (decode (opcodeAt s.mem s.pc.toNat)) →
    ∃ t, step s = .next t ∧ step (withEngine s .direct) = .next (withEngine t .direct)

/-- 44_dispatch_engines.md section 5, strategy equivalence of the caching engines: a `basic_block` tick that does not fault
gives, but for the block cache, the state of as many `decode_cache` ticks as the block has instructions: registers,
memory, `pc`, display, timers, latches and cadence. -/
def Obligations.BlockTickEqualsCachedTicks : Prop :=
  ∀ s t : State, MachineInv s → s.halted = .running → s.config.engine = .basicBlock → step s = .next t → t.halted = .running →
    ∃ b, cachedBlock t.blockCache s.pc.toNat = some b ∧ b ≠ [] ∧
      Host.Core.run Sys2Proof.core b.length (withEngine s .decodeCache) =
        Host.Outcome.next { withEngine t .decodeCache with blockCache := s.blockCache }

/-- 44_dispatch_engines.md section 4 (decision D19): an instruction that is not a terminator neither reads nor writes
`pc`, so only the last instruction of a block can. -/
def Obligations.OnlyTerminatorsUsePc : Prop :=
  ∀ (i : Instr) (s t : State) (a : Addr), isTerminator i = false → exec i s = .next t →
    t.pc = s.pc ∧ exec i { s with pc := a } = .next { t with pc := a }

/-- 44_dispatch_engines.md section 4 (decision D19): a block is built exactly at a slot; it is the run of consecutive
descriptors from there, no terminator before its last one, ending at a terminator or at the last slot. -/
def Obligations.BlockRunsToFirstTerminator : Prop :=
  ∀ (s : State) (e : Nat),
    (s.buildBlock e = none ↔ ∀ k, e = s.config.startAddr.toNat + 2 * k → s.decodeCache.length ≤ k) ∧
    ∀ b, s.buildBlock e = some b →
      ∃ k pre last rest, e = s.config.startAddr.toNat + 2 * k ∧ b = pre ++ [last] ∧
        s.decodeCache.drop k = pre ++ [last] ++ rest ∧ (∀ i ∈ pre, isTerminator i = false) ∧
        (isTerminator last = true ∨ rest = [])

/-- 44_dispatch_engines.md section 4, the jump to self: under `basic_block`, at a slot holding a jump to its own address the
built block is that one instruction; a tick builds and stores it, or re-runs it once cached, and leaves `pc` where it was with
one cadence step. What the frame says of `ia`, `rnd` and `evals` is the model's choice (DESIGN CHOICE,
notes/assumptions/6.md, 7.md), not the spec's. -/
def Obligations.JumpToSelfIsAOneInstructionBlock : Prop :=
  ∀ (s : State) (k : Nat),
    s.halted = .running → s.config.engine = .basicBlock → s.pc.toNat = s.config.startAddr.toNat + 2 * k →
    s.decodeCache[k]? = some (.jp s.pc) →
    s.buildBlock s.pc.toNat = some [.jp s.pc] ∧
    (cachedBlock s.blockCache s.pc.toNat = none → ∃ t,
      step s = .next t ∧ cachedBlock t.blockCache s.pc.toNat = some [.jp s.pc] ∧ t.pc = s.pc ∧
      t = { s with
            ia := s.pc, rnd := Config.rndByte s.evals, evals := s.evals + 1, blockCache := t.blockCache }.cadenceStep) ∧
    (cachedBlock s.blockCache s.pc.toNat = some [.jp s.pc] →
      step s = .next { s with ia := s.pc, rnd := Config.rndByte s.evals, evals := s.evals + 1 }.cadenceStep)

/-- R62: no instruction and no host operation changes either cache, and no step invalidates one: the decode cache stays, and
a cached block stays as it is. -/
def Obligations.CachesAreNeverInvalidated : Prop :=
  (∀ (i : Instr) (s t : State), exec i s = .next t → t.decodeCache = s.decodeCache ∧ t.blockCache = s.blockCache) ∧
  (∀ (s : State) (m : HostMove),
    (s.hostMove m).decodeCache = s.decodeCache ∧ (s.hostMove m).blockCache = s.blockCache) ∧
  (∀ s t : State, step s = .next t →
    t.decodeCache = s.decodeCache ∧
    ∀ e b, cachedBlock s.blockCache e = some b → cachedBlock t.blockCache e = some b)

/-! ## Whole-machine rules -/

/-- 10_state.md sections 5 to 8: no instruction changes the construction parameters and quirks, the key bitmap, the caches
or the cadence counter, nor the model's own evaluation fields. -/
def Obligations.NoInstructionChangesHostOrEngineState : Prop :=
  ∀ (i : Instr) (s t : State), exec i s = .next t →
    t.config = s.config ∧ t.keys = s.keys ∧ t.decodeCache = s.decodeCache ∧ t.blockCache = s.blockCache ∧
    t.cadence = s.cadence ∧ t.ia = s.ia ∧ t.rnd = s.rnd ∧ t.evals = s.evals

/-- Over a whole step of any engine: the parameters, the key bitmap and the decode cache are never changed (10_state.md
R32, R36, 20_memory.md R62), and the core never clears `dirty` (10_state.md R31). -/
def Obligations.StepKeepsParametersKeysAndDirty : Prop :=
  ∀ s t : State, step s = .next t →
    t.config = s.config ∧ t.keys = s.keys ∧ t.decodeCache = s.decodeCache ∧ (s.dirty = true → t.dirty = true)

/-- 20_memory.md section 1: only `FX33` and `FX55` write memory. -/
def Obligations.OnlyTwoStoresWriteMemory : Prop :=
  ∀ (i : Instr) (s t : State), exec i s = .next t → (∀ x, i ≠ .ldB x) → (∀ x, i ≠ .storeRegs x) → SameMemory s t

/-- 10_state.md sections 5 and 6: only `00E0` and `DXYN` write the display, `dirty` is set whenever it changes, and no
instruction clears `dirty`. -/
def Obligations.OnlyClearAndDrawWriteDisplay : Prop :=
  ∀ (i : Instr) (s t : State), exec i s = .next t →
    ((i ≠ .cls ∧ ∀ x y n, i ≠ .drw x y n) → t.display = s.display ∧ t.dirty = s.dirty) ∧
    (t.display ≠ s.display → t.dirty = true) ∧ (s.dirty = true → t.dirty = true)

/-- 10_state.md sections 4 and 5: who writes the call stack, `I`, `DT`, `ST` and the two latches, besides the timer
cadence. -/
def Obligations.WritersOfStackIndexTimersAndLatches : Prop :=
  ∀ (i : Instr) (s t : State), exec i s = .next t →
    (t.stack ≠ s.stack → i = .ret ∨ ∃ a, i = .call a) ∧
    (t.index ≠ s.index →
      (∃ a, i = .ldI a) ∨ (∃ x, i = .addI x) ∨ (∃ x, i = .ldF x) ∨
        (((∃ x, i = .storeRegs x) ∨ (∃ x, i = .loadRegs x)) ∧ s.config.quirks.memoryIncrement = true)) ∧
    (t.delay ≠ s.delay → ∃ x, i = .ldDtV x) ∧ (t.sound ≠ s.sound → ∃ x, i = .ldStV x) ∧
    (t.displayWaitLatch ≠ s.displayWaitLatch → (∃ x y n, i = .drw x y n) ∧ s.config.quirks.displayWait = true) ∧
    (t.keyReleaseLatch ≠ s.keyReleaseLatch → ∃ x, i = .ldVK x)

/-- 10_state.md section 3: `VF` is written as a flag by `8XY1`..`8XY3` under `vf_reset`, `8XY4`, `8XY5`, `8XY6`, `8XY7`,
`8XYE` and `DXYN`, and besides only by an instruction whose destination is `V[15]`. -/
def Obligations.WritersOfVF : Prop :=
  ∀ (i : Instr) (s t : State), exec i s = .next t → t.vf ≠ s.vf →
    (s.config.quirks.vfReset = true ∧ ∃ x y, i = .orReg x y ∨ i = .andReg x y ∨ i = .xorReg x y) ∨
    (∃ x y, i = .addReg x y ∨ i = .sub x y ∨ i = .shr x y ∨ i = .subn x y ∨ i = .shl x y) ∨
    (∃ x y n, i = .drw x y n) ∨
    (∃ nn, i = .ldImm 0xF nn ∨ i = .addImm 0xF nn ∨ i = .rnd 0xF nn) ∨
    (∃ y, i = .ldReg 0xF y ∨ i = .orReg 0xF y ∨ i = .andReg 0xF y ∨ i = .xorReg 0xF y) ∨
    i = .ldVDt 0xF ∨ i = .ldVK 0xF ∨ i = .loadRegs 0xF

/-! ## The instructions: result, frame and completion

A meaning runs with `pc` already at the address after the instruction (40_clear_and_control_flow.md R99), so an
instruction that leaves `pc` alone goes on there. `t = { s with … }` says that every other element of the state, memory
included, is as before. -/

/-- 40_clear_and_control_flow.md `00E0`: all 256 display bytes cleared, `dirty` set, nothing else changed. -/
def Obligations.ClearScreen : Prop :=
  ∀ s : State, ∃ t, exec .cls s = .next t ∧ (∀ j, j < 256 → dispByte t.display j = 0x00) ∧ t.dirty = true ∧
    SameMemory s t ∧ SameRegsBut [] s t ∧ t = { s with display := t.display, dirty := t.dirty }

/-- 40_clear_and_control_flow.md `00EE` (decision D16): the last address pushed is popped into `pc`; on an empty stack
`STACK_UNDERFLOW` is recorded and nothing else changes. -/
def Obligations.ReturnPopsOrUnderflows : Prop :=
  (∀ (s : State) (below : List Addr) (a : Addr), s.stack = below ++ [a] →
    exec .ret s = .next { s with stack := below, pc := a }) ∧
  (∀ s : State, s.stack = [] → exec .ret s = .next { s with halted := .faulted .stackUnderflow s.ia })

/-- 40_clear_and_control_flow.md `1NNN` and `BNNN`: `pc` becomes `nnn`, or the sum of `nnn` and `V[0]` (`V[x]`,
`x = nnn[11:8]`, under `jump_uses_vx`), wrapped to 12 bits; nothing else changes. -/
def Obligations.JumpsSetPc : Prop :=
  ∀ (s : State) (nnn : Addr),
    exec (.jp nnn) s = .next { s with pc := nnn } ∧
    ∃ t, exec (.jpV0 nnn) s = .next t ∧
      t.pc.toNat = (nnn.toNat + (if s.config.quirks.jumpUsesVx then s.reg (nnn.extractLsb' 8 4) else s.reg 0).toNat) % 4096 ∧
      t = { s with pc := t.pc }

/-- 40_clear_and_control_flow.md `2NNN` (decision D17): the return address is pushed on top and `pc` becomes `nnn`; when an
optional `STACK_LIMIT` is reached, `STACK_OVERFLOW` is recorded and nothing else changes. -/
def Obligations.CallPushesOrOverflows : Prop :=
  ∀ (s : State) (nnn : Addr),
    (s.config.stackLimit ≠ some s.stack.length →
      exec (.call nnn) s = .next { s with stack := s.stack ++ [s.pc], pc := nnn }) ∧
    (s.config.stackLimit = some s.stack.length →
      exec (.call nnn) s = .next { s with halted := .faulted .stackOverflow s.ia })

/-- 40_clear_and_control_flow.md `3XNN`, `4XNN`, `5XY0`, `9XY0`: `pc` advances by 2 more, wrapping at 12 bits, when `V[x] = nn`
(`V[x] != nn`), or when `V[x] = V[y]` (`V[x] != V[y]`), else not at all; with `x = y` the register forms always and never
skip; no other element changes. The decode clauses are the spec's decision D2 (30_encoding.md section 2; PRESUMED,
notes/assumptions/12.md). -/
def Obligations.SkipsOnImmediateAndRegister : Prop :=
  (∀ op : Opcode, (op &&& 0xF00F = 0x5000 → decode op = .seReg (fieldsOf op).x (fieldsOf op).y) ∧
    (op &&& 0xF00F = 0x9000 → decode op = .sneReg (fieldsOf op).x (fieldsOf op).y) ∧
    ((op &&& 0xF000 = 0x5000 ∨ op &&& 0xF000 = 0x9000) → op &&& 0x000F ≠ 0 → decode op = .unimpl op)) ∧
  (∀ (s : State) (x : Nibble) (nn : Byte), ∃ t u,
    exec (.seImm x nn) s = .next t ∧ exec (.sneImm x nn) s = .next u ∧
    t.pc.toNat = (if (s.reg x).toNat = nn.toNat then (s.pc.toNat + 2) % 4096 else s.pc.toNat) ∧
    u.pc.toNat = (if (s.reg x).toNat = nn.toNat then s.pc.toNat else (s.pc.toNat + 2) % 4096) ∧
    t = { s with pc := t.pc } ∧ u = { s with pc := u.pc }) ∧
  (∀ (s : State) (x y : Nibble), ∃ t u,
    exec (.seReg x y) s = .next t ∧ exec (.sneReg x y) s = .next u ∧
    t.pc.toNat = (if (s.reg x).toNat = (s.reg y).toNat then (s.pc.toNat + 2) % 4096 else s.pc.toNat) ∧
    u.pc.toNat = (if (s.reg x).toNat = (s.reg y).toNat then s.pc.toNat else (s.pc.toNat + 2) % 4096) ∧
    (x = y → t.pc = s.pc + 2 ∧ u.pc = s.pc) ∧
    t = { s with pc := t.pc } ∧ u = { s with pc := u.pc })

/-- 41_registers_and_alu.md `6XNN`, `8XY0`, 42_index_timer_memory.md `ANNN`: `nn`, and the value of `V[y]`, go to
`V[x]`, and `nnn` to `I`; nothing else changes. The decode clauses are the spec's decision D2 (30_encoding.md section 2;
PRESUMED, notes/assumptions/12.md). -/
def Obligations.LoadImmediateCopyAndIndex : Prop :=
  (∀ op : Opcode, (op &&& 0xF000 = 0x6000 → decode op = .ldImm (fieldsOf op).x (fieldsOf op).nn) ∧
    (op &&& 0xF00F = 0x8000 → decode op = .ldReg (fieldsOf op).x (fieldsOf op).y) ∧
    (op &&& 0xF000 = 0xA000 → decode op = .ldI (fieldsOf op).nnn)) ∧
  (∀ (s : State) (nnn : Addr), exec (.ldI nnn) s = .next { s with index := nnn }) ∧
  ∀ (s : State) (x y : Nibble) (nn : Byte), ∃ t u,
    exec (.ldImm x nn) s = .next t ∧ exec (.ldReg x y) s = .next u ∧
    t.reg x = nn ∧ SameRegsBut [x] s t ∧ t = { s with v := t.v } ∧
    u.reg x = s.reg y ∧ SameRegsBut [x] s u ∧ u = { s with v := u.v } ∧ (x = y → u = s)

/-- 41_registers_and_alu.md `7XNN` (decision D12): the sum modulo 256 goes to `V[x]`; no flag is written, so that `VF`
changes only as the destination; nothing else changes. -/
def Obligations.AddImmediateWrapsWithoutFlag : Prop :=
  ∀ (s : State) (x : Nibble) (nn : Byte), ∃ t,
    exec (.addImm x nn) s = .next t ∧ (t.reg x).toNat = ((s.reg x).toNat + nn.toNat) % 256 ∧
    SameRegsBut [x] s t ∧ t = { s with v := t.v }

/-- 41_registers_and_alu.md `8XY1`..`8XY3`: or, and, xor of the operands read first; `VF` becomes 0 only under `vf_reset`,
and then also for `x = 15` (decision D11); nothing else changes. The decode clauses are the spec's decision D2
(30_encoding.md section 2; PRESUMED, notes/assumptions/12.md). -/
def Obligations.LogicOperations : Prop :=
  (∀ op : Opcode, (op &&& 0xF00F = 0x8001 → decode op = .orReg (fieldsOf op).x (fieldsOf op).y) ∧
    (op &&& 0xF00F = 0x8002 → decode op = .andReg (fieldsOf op).x (fieldsOf op).y) ∧
    (op &&& 0xF00F = 0x8003 → decode op = .xorReg (fieldsOf op).x (fieldsOf op).y)) ∧
  ∀ (s : State) (x y : Nibble) (i : Instr) (r : Byte),
    (i = .orReg x y ∧ r = s.reg x ||| s.reg y ∨ i = .andReg x y ∧ r = s.reg x &&& s.reg y ∨
      i = .xorReg x y ∧ r = s.reg x ^^^ s.reg y) →
    ∃ t, exec i s = .next t ∧
      t.reg x = (if x = 0xF ∧ s.config.quirks.vfReset = true then 0 else r) ∧
      (x ≠ 0xF → t.vf = if s.config.quirks.vfReset = true then 0 else s.vf) ∧
      SameRegsBut [x, 0xF] s t ∧ t = { s with v := t.v }

/-- 41_registers_and_alu.md `8XY4`: the sum modulo 256 goes to `V[x]` and then the carry, from the sum before masking, to
`VF`, which for `x = 15` ends as the carry (decision D11); nothing else changes. The decode clause is the spec's decision D2
(30_encoding.md section 2; PRESUMED, notes/assumptions/12.md). -/
def Obligations.AddRegistersSetsCarry : Prop :=
  (∀ op : Opcode, op &&& 0xF00F = 0x8004 → decode op = .addReg (fieldsOf op).x (fieldsOf op).y) ∧
  ∀ (s : State) (x y : Nibble), ∃ t,
    exec (.addReg x y) s = .next t ∧
    (x ≠ 0xF → (t.reg x).toNat = ((s.reg x).toNat + (s.reg y).toNat) % 256) ∧
    t.vf.toNat = ((s.reg x).toNat + (s.reg y).toNat) / 256 ∧
    SameRegsBut [x, 0xF] s t ∧ t = { s with v := t.v }

/-- 41_registers_and_alu.md `8XY5`, `8XY7`: `V[x] - V[y]`, or `V[y] - V[x]`, modulo 256, goes to `V[x]`, and then to `VF` 1
when the minuend is at least the subtrahend, else 0, which for `x = 15` stands (decision D11); nothing else changes. The
decode clauses are the spec's decision D2 (30_encoding.md section 2; PRESUMED, notes/assumptions/12.md). -/
def Obligations.SubtractSetsNoBorrow : Prop :=
  (∀ op : Opcode, (op &&& 0xF00F = 0x8005 → decode op = .sub (fieldsOf op).x (fieldsOf op).y) ∧
    (op &&& 0xF00F = 0x8007 → decode op = .subn (fieldsOf op).x (fieldsOf op).y)) ∧
  ∀ (s : State) (x y : Nibble), ∃ t u,
    exec (.sub x y) s = .next t ∧ exec (.subn x y) s = .next u ∧
    (x ≠ 0xF → (t.reg x).toNat = ((s.reg x).toNat + 256 - (s.reg y).toNat) % 256 ∧
      (u.reg x).toNat = ((s.reg y).toNat + 256 - (s.reg x).toNat) % 256) ∧
    t.vf = (if (s.reg y).toNat ≤ (s.reg x).toNat then 1 else 0) ∧
    u.vf = (if (s.reg x).toNat ≤ (s.reg y).toNat then 1 else 0) ∧
    SameRegsBut [x, 0xF] s t ∧ t = { s with v := t.v } ∧ SameRegsBut [x, 0xF] s u ∧ u = { s with v := u.v }

/-- 41_registers_and_alu.md `8XY6`, `8XYE`: with the operand `V[x]` under `shift_uses_vy` (90_conflicts.md C1) and `V[y]` by
default, it is written shifted by one to `V[x]`, and then the bit shifted out to `VF`, which for `x = 15` stands
(decision D11); nothing else changes. The decode clause for `8XYE` is the spec's decision D2 (30_encoding.md section 2;
PRESUMED, notes/assumptions/12.md); `8XY6` is the source's own pattern. -/
def Obligations.ShiftsSetBitShiftedOut : Prop :=
  (∀ op : Opcode, (op &&& 0xF00F = 0x8006 → decode op = .shr (fieldsOf op).x (fieldsOf op).y) ∧
    (op &&& 0xF00F = 0x800E → decode op = .shl (fieldsOf op).x (fieldsOf op).y)) ∧
  ∀ (s : State) (x y : Nibble) (b : Nat),
    b = (if s.config.quirks.shiftUsesVy = true then s.reg x else s.reg y).toNat → ∃ t u,
    exec (.shr x y) s = .next t ∧ exec (.shl x y) s = .next u ∧
    (x ≠ 0xF → (t.reg x).toNat = b / 2 ∧ (u.reg x).toNat = b * 2 % 256) ∧
    t.vf.toNat = b % 2 ∧ u.vf.toNat = b / 128 ∧
    SameRegsBut [x, 0xF] s t ∧ t = { s with v := t.v } ∧ SameRegsBut [x, 0xF] s u ∧ u = { s with v := u.v }

/-- 41_registers_and_alu.md `CXNN` (decision D26): `V[x]` becomes the evaluation's random byte and `nn`, whatever byte was
supplied, and nothing else changes; under `direct` the byte is the next of the host's sequence, a free value of the
model (notes/assumptions/7.md). -/
def Obligations.RandomByteIsMasked : Prop :=
  (∀ (s : State) (x : Nibble) (nn : Byte), ∃ t,
    exec (.rnd x nn) s = .next t ∧ t.reg x = s.rnd &&& nn ∧ SameRegsBut [x] s t ∧ t = { s with v := t.v }) ∧
  (∀ (s t : State) (x : Nibble) (nn : Byte),
    s.halted = .running → s.config.engine = .direct → s.pc.toNat + 1 < 4096 →
    decode (opcodeAt s.mem s.pc.toNat) = .rnd x nn → step s = .next t →
    t.reg x = Config.rndByte s.evals &&& nn ∧ t.evals = s.evals + 1)

/-- 42_index_timer_memory.md `FX07`, `FX15`, `FX18`, `FX1E`, `FX29` (decisions D6, D7, D12): `V[x]` from `DT`, `DT` from `V[x]`,
`ST` from `V[x]`; `I` becomes the sum of `I` and `V[x]` wrapped to 12 bits with no flag, or the glyph address of the low digit
of `V[x]` (stride PRESUMED, notes/assumptions/13.md); nothing else changes. -/
def Obligations.TimerAndIndexTransfers : Prop :=
  ∀ (s : State) (x : Nibble), ∃ r t u,
    exec (.ldVDt x) s = .next r ∧ r.reg x = s.delay ∧ SameRegsBut [x] s r ∧ r = { s with v := r.v } ∧
    exec (.ldDtV x) s = .next { s with delay := s.reg x } ∧
    exec (.ldStV x) s = .next { s with sound := s.reg x } ∧
    exec (.addI x) s = .next t ∧ t.index.toNat = (s.index.toNat + (s.reg x).toNat) % 4096 ∧
    t = { s with index := t.index } ∧
    exec (.ldF x) s = .next u ∧
    u.index.toNat = (s.config.fontBase.toNat + 5 * ((s.reg x).toNat % 16)) % 4096 ∧ u = { s with index := u.index }

/-- 42_index_timer_memory.md `FX33` (general knowledge G5, PRESUMED, notes/assumptions/13.md; decision D8): the
hundreds, tens and ones of `V[x]` at `I`, `I + 1`, `I + 2`, every other byte and element as before; when `I + 2` is
outside memory, `MEM_RANGE` is recorded and nothing is written. -/
def Obligations.BcdStore : Prop :=
  ∀ (s : State) (x : Nibble),
    (s.index.toNat + 2 < 4096 → ∃ t,
      exec (.ldB x) s = .next t ∧
      (s.mem.wf = true → (t.mem.read (s.effAddr 0)).toNat = (s.reg x).toNat / 100 ∧
        (t.mem.read (s.effAddr 1)).toNat = (s.reg x).toNat / 10 % 10 ∧
        (t.mem.read (s.effAddr 2)).toNat = (s.reg x).toNat % 10) ∧
      SameMemoryOutside (s.effAddr 0) 3 s t ∧ t = { s with mem := t.mem }) ∧
    (4096 ≤ s.index.toNat + 2 → exec (.ldB x) s = .next { s with halted := .faulted .memRange s.ia })

/-- 42_index_timer_memory.md `FX55` (decision D8 for the fault): `V0`..`Vx` are stored at `I`..`I + x` and, only under
`memory_increment`, `I` becomes `I + x + 1` wrapped to 12 bits; every other byte and element is as before; with `I + x`
outside memory `MEM_RANGE` is recorded and nothing is written; it ends a basic block, and the decode cache does not see
the store. -/
def Obligations.RegisterBlockStore : Prop :=
  (∀ op : Opcode, op &&& 0xF0FF = 0xF055 → decode op = .storeRegs (fieldsOf op).x) ∧
  ∀ (s : State) (x : Nibble), isTerminator (.storeRegs x) = true ∧
    (s.index.toNat + x.toNat < 4096 → ∃ t,
      exec (.storeRegs x) s = .next t ∧
      (s.mem.wf = true → ∀ r : Nibble, r.toNat ≤ x.toNat → t.mem.read (s.effAddr r.toNat) = s.reg r) ∧
      SameMemoryOutside (s.effAddr 0) (x.toNat + 1) s t ∧
      t.index.toNat = (if s.config.quirks.memoryIncrement = true then (s.index.toNat + x.toNat + 1) % 4096 else s.index.toNat) ∧
      t.decodeCache = s.decodeCache ∧ t = { s with mem := t.mem, index := t.index }) ∧
    (4096 ≤ s.index.toNat + x.toNat → exec (.storeRegs x) s = .next { s with halted := .faulted .memRange s.ia })

/-- 42_index_timer_memory.md `FX65` (decision D8 for the fault): `V0`..`Vx` are loaded from `I`..`I + x` (`VF` too for
`x = 15`) and, only under `memory_increment`, `I` becomes `I + x + 1` wrapped to 12 bits; every other register, and all
of memory, is as before; with `I + x` outside memory `MEM_RANGE` is recorded and nothing is written. -/
def Obligations.RegisterBlockLoad : Prop :=
  (∀ op : Opcode, op &&& 0xF0FF = 0xF065 → decode op = .loadRegs (fieldsOf op).x) ∧
  ∀ (s : State) (x : Nibble),
    (s.index.toNat + x.toNat < 4096 → ∃ t,
      exec (.loadRegs x) s = .next t ∧
      (∀ r : Nibble, t.reg r = if r.toNat ≤ x.toNat then s.mem.read (s.index.toNat + r.toNat) else s.reg r) ∧
      t.index.toNat = (if s.config.quirks.memoryIncrement = true then (s.index.toNat + x.toNat + 1) % 4096 else s.index.toNat) ∧
      SameMemory s t ∧ t = { s with v := t.v, index := t.index }) ∧
    (4096 ≤ s.index.toNat + x.toNat → exec (.loadRegs x) s = .next { s with halted := .faulted .memRange s.ia })

/-- 43_input.md `EX9E` and `EXA1` (decision D10): for a key number below 16 the skip is by that key's bit, and nothing else
changes; for 16 or more `KEY_RANGE` is recorded and nothing else changes. -/
def Obligations.KeySkips : Prop :=
  ∀ (s : State) (x : Nibble),
    ((s.reg x).toNat < 16 → ∃ t u, exec (.skp x) s = .next t ∧ exec (.sknp x) s = .next u ∧
      t.pc = (if s.keyDown (s.reg x).toNat = true then s.pc + 2 else s.pc) ∧
      u.pc = (if s.keyDown (s.reg x).toNat = true then s.pc else s.pc + 2) ∧
      t = { s with pc := t.pc } ∧ u = { s with pc := u.pc }) ∧
    (16 ≤ (s.reg x).toNat →
      exec (.skp x) s = .next { s with halted := .faulted .keyRange s.ia } ∧
      exec (.sknp x) s = .next { s with halted := .faulted .keyRange s.ia })

/-- 43_input.md `FX0A` (decision D13): with a key down, the lowest one is captured in `V[x]`, the latch set and `pc`
rewound; with none down and the latch set, the latch is cleared and the instruction completes; with none down and the
latch clear, `pc` is rewound. Nothing else changes. -/
def Obligations.KeyWait : Prop :=
  ∀ (s : State) (x : Nibble),
    (∀ k, k < 16 → s.keyDown k = true → (∀ j, j < k → s.keyDown j = false) → ∃ t,
      exec (.ldVK x) s = .next t ∧ (t.reg x).toNat = k ∧ SameRegsBut [x] s t ∧ t.keyReleaseLatch = true ∧
      t.pc = s.pc - 2 ∧ t = { s with v := t.v, keyReleaseLatch := t.keyReleaseLatch, pc := t.pc }) ∧
    ((∀ k, k < 16 → s.keyDown k = false) → s.keyReleaseLatch = true →
      exec (.ldVK x) s = .next { s with keyReleaseLatch := false }) ∧
    ((∀ k, k < 16 → s.keyDown k = false) → s.keyReleaseLatch = false →
      exec (.ldVK x) s = .next { s with pc := s.pc - 2 })

/-- 45_display_blit.md section 2 (decisions D8, D15, D27): a draw waits, when the display-wait quirk is enabled and the
latch set, by rewinding `pc` alone; a drawn row outside memory is recorded as `MEM_RANGE` before any write; every other
draw completes: `dirty` is set, the latch too under display-wait, `VF` becomes 0 or 1, only the display changes
besides, and memory and `I` stay. -/
def Obligations.DrawWaitsFaultsOrCompletes : Prop :=
  ∀ (s : State) (x y n : Nibble),
    (s.config.quirks.displayWait = true → s.displayWaitLatch = true →
      exec (.drw x y n) s = .next { s with pc := s.pc - 2 }) ∧
    (¬ (s.config.quirks.displayWait = true ∧ s.displayWaitLatch = true) → 0 < shownRows s y n →
      4096 ≤ s.index.toNat + shownRows s y n - 1 →
      exec (.drw x y n) s = .next { s with halted := .faulted .memRange s.ia }) ∧
    (DrawProceeds s y n → ∃ t,
      exec (.drw x y n) s = .next t ∧ t.dirty = true ∧
      t.displayWaitLatch = (s.displayWaitLatch || s.config.quirks.displayWait) ∧ (t.vf = 0 ∨ t.vf = 1) ∧
      SameRegsBut [0xF] s t ∧ SameMemory s t ∧
      t = { s with v := t.v, display := t.display, displayWaitLatch := t.displayWaitLatch, dirty := t.dirty })

/-- 45_display_blit.md sections 1 and 2: a draw that proceeds is the XOR of the sprite into the display, pixel by pixel,
clipped at the right and bottom edges or wrapped around them, and `VF` says whether it turned a lit pixel off. -/
def Obligations.DrawIsPixelwiseXor : Prop :=
  ∀ (s : State) (x y n : Nibble), DrawProceeds s y n → ∃ t,
    exec (.drw x y n) s = .next t ∧
    (∀ px py, px < 64 → py < 32 → t.pixel px py = (s.pixel px py ^^ spritePixel s x y n px py)) ∧
    (t.vf = 1 ↔ ∃ px py, px < 64 ∧ py < 32 ∧ s.pixel px py = true ∧ spritePixel s x y n px py = true) ∧
    (t.vf = 0 ↔ ¬ ∃ px py, px < 64 ∧ py < 32 ∧ s.pixel px py = true ∧ spritePixel s x y n px py = true)

/-- 45_display_blit.md section 2, the double draw (90_conflicts.md C13): without display-wait, drawing the same sprite at
the same place twice restores the display, and the second draw's `VF` is 1 or 0. -/
def Obligations.DrawingTwiceRestoresDisplay : Prop :=
  ∀ (s : State) (x y n : Nibble), s.config.quirks.displayWait = false → x ≠ 0xF → y ≠ 0xF → DrawProceeds s y n →
    ∃ t u, exec (.drw x y n) s = .next t ∧ exec (.drw x y n) t = .next u ∧ u.display = s.display ∧
      (u.vf = 1 ↔ ∃ px py, px < 64 ∧ py < 32 ∧ t.pixel px py = true ∧ spritePixel s x y n px py = true)

/-- 44_dispatch_engines.md `UNIMPL`: the fallback changes nothing at all; with the fetch and the cadence step of the
tick, under `direct`, `pc` ends 2 further and one cadence step is taken. Which opcodes are unassigned is the spec's
decision D2, and the fetch's byte order G1 (PRESUMED, notes/assumptions/12.md, 11.md); `ia`, `rnd`, `evals` are the
model's (6.md, 7.md). -/
def Obligations.UnimplementedIsNoOp : Prop :=
  (∀ (op : Opcode) (s : State), exec (.unimpl op) s = .next s) ∧
  (∀ s : State, s.halted = .running → s.config.engine = .direct → s.pc.toNat + 1 < 4096 →
    unassigned (opcodeAt s.mem s.pc.toNat) = true →
    step s = .next { s with pc := s.pc + 2, ia := s.pc, rnd := Config.rndByte s.evals, evals := s.evals + 1 }.cadenceStep)
end

