-- ==== Sys2Proof/Laws/Decode.lean ====
section
/-! SUPPORT. The laws of the opcode's fields (30_encoding.md R71): the number a word is, its digits back from each
shape, and a pattern's match in terms of the digits. -/

namespace Sys2Proof

/-- The number an opcode of shape `dNNN` is. -/
theorem opNNN_toNat (d : Nibble) (a : Addr) : (opNNN d a).toNat = d.toNat * 4096 + a.toNat := by
  have := Nat.shiftLeft_add_eq_or_of_lt a.isLt d.toNat
  rw [show (opNNN d a).toNat = d.toNat <<< 12 ||| a.toNat from BitVec.toNat_append d a, ← this, Nat.shiftLeft_eq]

/-- The number an opcode of shape `dXNN` is. -/
theorem opXNN_toNat (d x : Nibble) (nn : Byte) :
    (opXNN d x nn).toNat = d.toNat * 4096 + x.toNat * 256 + nn.toNat := by
  have h1 := Nat.shiftLeft_add_eq_or_of_lt nn.isLt (d ++ x).toNat
  have h2 := Nat.shiftLeft_add_eq_or_of_lt x.isLt d.toNat
  rw [show (opXNN d x nn).toNat = (d ++ x).toNat <<< 8 ||| nn.toNat from BitVec.toNat_append (d ++ x) nn, ← h1,
    BitVec.toNat_append, ← h2, Nat.shiftLeft_eq, Nat.shiftLeft_eq]
  omega

/-- The number an opcode of shape `dXYN` is. -/
theorem opXYN_toNat (d x y n : Nibble) :
    (opXYN d x y n).toNat = d.toNat * 4096 + x.toNat * 256 + y.toNat * 16 + n.toNat := by
  have h1 := Nat.shiftLeft_add_eq_or_of_lt (y ++ n).isLt (d ++ x).toNat
  have h2 := Nat.shiftLeft_add_eq_or_of_lt x.isLt d.toNat
  have h3 := Nat.shiftLeft_add_eq_or_of_lt n.isLt y.toNat
  rw [show (opXYN d x y n).toNat = (d ++ x).toNat <<< 8 ||| (y ++ n).toNat from
      BitVec.toNat_append (d ++ x) (y ++ n), ← h1,
    BitVec.toNat_append, BitVec.toNat_append, ← h2, ← h3, Nat.shiftLeft_eq, Nat.shiftLeft_eq, Nat.shiftLeft_eq]
  omega

/-- The top digit as a number. -/
theorem op4_toNat (op : Opcode) : (op4 op).toNat = op.toNat / 4096 := by
  have := op.isLt
  simp only [op4, BitVec.extractLsb'_toNat, Nat.shiftRight_eq_div_pow]
  omega

/-- The field `x` as a number. -/
theorem fieldsOf_x_toNat (op : Opcode) : (fieldsOf op).x.toNat = op.toNat / 256 % 16 := by
  simp [fieldsOf, BitVec.extractLsb'_toNat, Nat.shiftRight_eq_div_pow]

/-- The field `y` as a number. -/
theorem fieldsOf_y_toNat (op : Opcode) : (fieldsOf op).y.toNat = op.toNat / 16 % 16 := by
  simp [fieldsOf, BitVec.extractLsb'_toNat, Nat.shiftRight_eq_div_pow]

/-- The field `n` as a number. -/
theorem fieldsOf_n_toNat (op : Opcode) : (fieldsOf op).n.toNat = op.toNat % 16 := by
  simp [fieldsOf, BitVec.extractLsb'_toNat]

/-- The field `nn` as a number. -/
theorem fieldsOf_nn_toNat (op : Opcode) : (fieldsOf op).nn.toNat = op.toNat % 256 := by
  simp [fieldsOf, BitVec.extractLsb'_toNat]

/-- The field `nnn` as a number. -/
theorem fieldsOf_nnn_toNat (op : Opcode) : (fieldsOf op).nnn.toNat = op.toNat % 4096 := by
  simp [fieldsOf, BitVec.extractLsb'_toNat]

@[simp] theorem fieldsOf_op (op : Opcode) : (fieldsOf op).op = op := rfl

@[simp] theorem op4_opXYN (d x y n : Nibble) : op4 (opXYN d x y n) = d := by
  apply BitVec.eq_of_toNat_eq
  rw [op4_toNat, opXYN_toNat]
  omega

@[simp] theorem fieldsOf_opXYN_x (d x y n : Nibble) : (fieldsOf (opXYN d x y n)).x = x := by
  apply BitVec.eq_of_toNat_eq
  rw [fieldsOf_x_toNat, opXYN_toNat]
  omega

@[simp] theorem fieldsOf_opXYN_y (d x y n : Nibble) : (fieldsOf (opXYN d x y n)).y = y := by
  apply BitVec.eq_of_toNat_eq
  rw [fieldsOf_y_toNat, opXYN_toNat]
  omega

@[simp] theorem fieldsOf_opXYN_n (d x y n : Nibble) : (fieldsOf (opXYN d x y n)).n = n := by
  apply BitVec.eq_of_toNat_eq
  rw [fieldsOf_n_toNat, opXYN_toNat]
  omega

@[simp] theorem op4_opXNN (d x : Nibble) (nn : Byte) : op4 (opXNN d x nn) = d := by
  apply BitVec.eq_of_toNat_eq
  rw [op4_toNat, opXNN_toNat]
  omega

@[simp] theorem fieldsOf_opXNN_x (d x : Nibble) (nn : Byte) : (fieldsOf (opXNN d x nn)).x = x := by
  apply BitVec.eq_of_toNat_eq
  rw [fieldsOf_x_toNat, opXNN_toNat]
  omega

@[simp] theorem fieldsOf_opXNN_nn (d x : Nibble) (nn : Byte) : (fieldsOf (opXNN d x nn)).nn = nn := by
  apply BitVec.eq_of_toNat_eq
  rw [fieldsOf_nn_toNat, opXNN_toNat]
  omega

@[simp] theorem op4_opNNN (d : Nibble) (a : Addr) : op4 (opNNN d a) = d := by
  apply BitVec.eq_of_toNat_eq
  rw [op4_toNat, opNNN_toNat]
  omega

@[simp] theorem fieldsOf_opNNN_nnn (d : Nibble) (a : Addr) : (fieldsOf (opNNN d a)).nnn = a := by
  apply BitVec.eq_of_toNat_eq
  rw [fieldsOf_nnn_toNat, opNNN_toNat]
  omega

/-- A word is its four digits. -/
theorem opXYN_fieldsOf (op : Opcode) : opXYN (op4 op) (fieldsOf op).x (fieldsOf op).y (fieldsOf op).n = op := by
  apply BitVec.eq_of_toNat_eq
  rw [opXYN_toNat, op4_toNat, fieldsOf_x_toNat, fieldsOf_y_toNat, fieldsOf_n_toNat]
  omega

/-- A word is its top digit, `x` and `nn`. -/
theorem opXNN_fieldsOf (op : Opcode) : opXNN (op4 op) (fieldsOf op).x (fieldsOf op).nn = op := by
  apply BitVec.eq_of_toNat_eq
  rw [opXNN_toNat, op4_toNat, fieldsOf_x_toNat, fieldsOf_nn_toNat]
  omega

/-- A word is its top digit and `nnn`. -/
theorem opNNN_fieldsOf (op : Opcode) : opNNN (op4 op) (fieldsOf op).nnn = op := by
  apply BitVec.eq_of_toNat_eq
  rw [opNNN_toNat, op4_toNat, fieldsOf_nnn_toNat]
  omega

/-- The digits of a `dXNN` word. -/
theorem opXNN_digits (d x : Nibble) (nn : Byte) :
    opXNN d x nn = opXYN d x (nn.extractLsb' 4 4) (nn.extractLsb' 0 4) := by
  apply BitVec.eq_of_toNat_eq
  rw [opXNN_toNat, opXYN_toNat, BitVec.extractLsb'_toNat, BitVec.extractLsb'_toNat, Nat.shiftRight_eq_div_pow,
    Nat.shiftRight_eq_div_pow]
  omega

/-- The digits of a `dNNN` word. -/
theorem opNNN_digits (d : Nibble) (a : Addr) :
    opNNN d a = opXYN d (a.extractLsb' 8 4) (a.extractLsb' 4 4) (a.extractLsb' 0 4) := by
  apply BitVec.eq_of_toNat_eq
  rw [opNNN_toNat, opXYN_toNat, BitVec.extractLsb'_toNat, BitVec.extractLsb'_toNat, BitVec.extractLsb'_toNat,
    Nat.shiftRight_eq_div_pow, Nat.shiftRight_eq_div_pow, Nat.shiftRight_eq_div_pow]
  omega

/-- A bit of a four-digit word. -/
theorem opXYN_getElem (d x y n : Nibble) (i : Nat) (hi : i < 16) :
    (opXYN d x y n)[i] =
      if h : i < 4 then n[i] else if h : i < 8 then y[i - 4] else if h : i < 12 then x[i - 8] else d[i - 12] := by
  rw [show (opXYN d x y n)[i] = _ from BitVec.getElem_append (x := d ++ x) (y := y ++ n) hi]
  split
  · rw [BitVec.getElem_append]
  · rw [BitVec.getElem_append]
    have : ¬ i < 4 := by omega
    simp only [this, dite_false]
    simp_all
    split <;> split <;> (try omega) <;> congr 1

/-- The mask `0xF000` keeps the top digit. -/
theorem and_F000 (op : Opcode) : op &&& 0xF000 = opXYN (op4 op) 0 0 0 := by
  ext i hi
  rw [opXYN_getElem]
  interval_cases i <;> simp [op4]

/-- The mask `0xF00F` keeps the top and the low digit. -/
theorem and_F00F (op : Opcode) : op &&& 0xF00F = opXYN (op4 op) 0 0 (fieldsOf op).n := by
  ext i hi
  rw [opXYN_getElem]
  interval_cases i <;> simp [op4, fieldsOf]

/-- The mask `0xF0FF` keeps the top digit and the low byte. -/
theorem and_F0FF (op : Opcode) : op &&& 0xF0FF = opXYN (op4 op) 0 (fieldsOf op).y (fieldsOf op).n := by
  ext i hi
  rw [opXYN_getElem]
  interval_cases i <;> simp [op4, fieldsOf]

/-- Four-digit words are equal exactly when their digits are. -/
theorem opXYN_inj {d x y n d' x' y' n' : Nibble} :
    opXYN d x y n = opXYN d' x' y' n' ↔ d = d' ∧ x = x' ∧ y = y' ∧ n = n' := by
  constructor
  · intro h
    exact ⟨by simpa using congrArg op4 h, by simpa using congrArg (fun w => (fieldsOf w).x) h,
      by simpa using congrArg (fun w => (fieldsOf w).y) h, by simpa using congrArg (fun w => (fieldsOf w).n) h⟩
  · rintro ⟨rfl, rfl, rfl, rfl⟩
    rfl

/-- A pattern's match, digit by digit (R73). -/
theorem Pattern.admits_opXYN (p : Pattern) (d x y n : Nibble) :
    p.admits (opXYN d x y n) = (p.d3.admits d && p.d2.admits x && p.d1.admits y && p.d0.admits n) := by
  simp [Pattern.admits]

/-- The bytes of a word as memory holds them decode to the word's instruction. -/
theorem opcodeOfBytes_bytesOfOpcode (op : Opcode) :
    opcodeOfBytes (op.extractLsb' 8 8) (op.extractLsb' 0 8) = op := by
  apply BitVec.eq_of_toNat_eq
  have h := Nat.shiftLeft_add_eq_or_of_lt (op.extractLsb' 0 8).isLt (op.extractLsb' 8 8).toNat
  rw [show (opcodeOfBytes (op.extractLsb' 8 8) (op.extractLsb' 0 8)).toNat = _ from BitVec.toNat_append _ _, ← h,
    BitVec.extractLsb'_toNat, BitVec.extractLsb'_toNat, Nat.shiftLeft_eq, Nat.shiftRight_eq_div_pow]
  have := op.isLt
  omega

end Sys2Proof
end

