-- ==== Sys2Proof/Laws/Display.lean ====
section
/-! SUPPORT. The blit's laws (45_display_blit.md), pixel by pixel: one XOR of a part, one sprite row, all rows. -/

namespace Sys2Proof.Machine

/-- The bit that row byte `b` drawn at pixel column `xx` puts at column `px` (R247): `7 - dx` for the pixel `dx` right of
the origin, counted around the edge; none past the right edge under clipping. -/
def rowBit (clipping : Bool) (xx : Nat) (b : Byte) (px : Nat) : Bool :=
  decide ((px + 64 - xx) % 64 < 8) && (!clipping || decide (xx + (px + 64 - xx) % 64 < 64)) &&
    b.getLsbD (7 - (px + 64 - xx) % 64)

/-- A display byte after one XOR (R247). -/
theorem Blit.xorPart_dispByte (d : Blit) {j : Nat} (hj : j < 256) (p : Byte) (k : Nat) :
    dispByte (d.xorPart j p).display k = if k = j then dispByte d.display j ^^^ p else dispByte d.display k := by
  unfold dispByte Blit.xorPart
  by_cases h : k = j
  · subst h
    simp [hj, dispByte]
  · simp [h, Ne.symm h]

/-- A pixel after one XOR into byte column `c` of row `r`. -/
theorem Blit.xorPart_pixel (d : Blit) {c r : Nat} (hc : c < 8) (hr : r < 32) (p : Byte) {px py : Nat} (hx : px < 64) :
    pixelOf (d.xorPart (dispIndex c r) p).display px py =
      (pixelOf d.display px py ^^ (decide (px / 8 = c) && decide (py = r) && p.getLsbD (7 - px % 8))) := by
  unfold pixelOf
  rw [Blit.xorPart_dispByte d (by simp only [dispIndex, displayWidth]; omega)]
  by_cases h : px / 8 = c ∧ py = r
  · obtain ⟨rfl, rfl⟩ := h
    simp
  · have hne : dispIndex (px / 8) py ≠ dispIndex c r := by
      simp only [dispIndex, displayWidth]
      omega
    have : (decide (px / 8 = c) && decide (py = r)) = false := by
      simpa using h
    simp [hne, this]

/-- A byte's bits in terms of its pixels: the byte is nonzero under a mask exactly when a pixel is. -/
theorem byte_ne_zero_iff (b : Byte) : b ≠ 0 ↔ ∃ k, k < 8 ∧ b.getLsbD (7 - k) = true := by
  constructor
  · intro h
    by_contra hno
    apply h
    ext i hi
    have h0 : ¬ b.getLsbD (7 - (7 - i)) = true := fun e => hno ⟨7 - i, by omega, e⟩
    rw [show 7 - (7 - i) = i by omega, BitVec.getLsbD_eq_getElem hi] at h0
    simpa using h0
  · rintro ⟨k, _, hb⟩ rfl
    simp at hb

/-- The collision of one XOR (R248): a pixel of that byte is lit and the part has it set. -/
theorem Blit.xorPart_collision (d : Blit) {c r : Nat} (hc : c < 8) (p : Byte) :
    (d.xorPart (dispIndex c r) p).collision = true ↔
      d.collision = true ∨
        ∃ px, px < 64 ∧ px / 8 = c ∧ pixelOf d.display px r = true ∧ p.getLsbD (7 - px % 8) = true := by
  simp only [Blit.xorPart, Bool.or_eq_true, decide_eq_true_eq, byte_ne_zero_iff, BitVec.getLsbD_and,
    Bool.and_eq_true]
  constructor
  · rintro (h | ⟨k, hk, h1, h2⟩)
    · exact .inl h
    · refine .inr ⟨8 * c + k, by omega, by omega, ?_, ?_⟩
      · rw [pixelOf, show (8 * c + k) / 8 = c by omega, show (8 * c + k) % 8 = k by omega]
        exact h1
      · rw [show (8 * c + k) % 8 = k by omega]
        exact h2
  · rintro (h | ⟨px, _, rfl, h1, h2⟩)
    · exact .inl h
    · exact .inr ⟨px % 8, by omega, h1, h2⟩

/-- A bit of the part in the first byte column (R247). -/
theorem leftPart_bit (b : Byte) {off k : Nat} (hk : k < 8) :
    (leftPart b off).getLsbD (7 - k) = (decide (off ≤ k) && b.getLsbD (7 - (k - off))) := by
  unfold leftPart
  rw [BitVec.getLsbD_ushiftRight]
  by_cases h : off ≤ k
  · simp only [h, decide_true, Bool.true_and]
    congr 1
    omega
  · simp only [h, decide_false, Bool.false_and]
    exact BitVec.getLsbD_of_ge _ _ (by omega)

/-- A bit of the part in the second byte column (R247). -/
theorem rightPart_bit (b : Byte) {off k : Nat} (ho : off < 8) (hk : k < 8) :
    (rightPart b off).getLsbD (7 - k) = (decide (k < off) && b.getLsbD (7 - (k + 8 - off))) := by
  unfold rightPart
  rw [BitVec.getLsbD_shiftLeft]
  by_cases h : k < off
  · have h1 : ¬ 7 - k < 8 - off := by omega
    have h2 : 7 - k - (8 - off) = 7 - (k + 8 - off) := by omega
    have h3 : 7 - k < 8 := by omega
    simp [h, h1, h2, h3]
  · have h1 : 7 - k < 8 - off := by omega
    simp [h, h1]

/-- The row bit as the two halves of R247. -/
theorem rowBit_halves (clipping : Bool) {xx px : Nat} (hxx : xx < 64) (hx : px < 64) (b : Byte) :
    rowBit clipping xx b px =
      ((decide (px / 8 = xx / 8) && (leftPart b (xx % 8)).getLsbD (7 - px % 8)) ^^
        (decide (xx / 8 + 1 ≤ 7 ∨ clipping = false) && decide (px / 8 = (xx / 8 + 1) % 8) &&
          (rightPart b (xx % 8)).getLsbD (7 - px % 8))) := by
  rw [leftPart_bit b (by omega), rightPart_bit b (by omega) (by omega)]
  unfold rowBit
  by_cases h1 : px / 8 = xx / 8
  · have d1 : decide (px / 8 = xx / 8) = true := by simpa using h1
    have d2 : decide (px / 8 = (xx / 8 + 1) % 8) = false := by simp; omega
    by_cases h3 : xx % 8 ≤ px % 8
    · have e : (px + 64 - xx) % 64 = px % 8 - xx % 8 := by omega
      have d3 : decide (xx % 8 ≤ px % 8) = true := by simpa using h3
      have d4 : decide (px % 8 - xx % 8 < 8) = true := by simp; omega
      have d5 : decide (xx + (px % 8 - xx % 8) < 64) = true := by simp; omega
      rw [d1, d2, d3, e, d4, d5]
      simp
    · have d3 : decide (xx % 8 ≤ px % 8) = false := by simpa using h3
      have d4 : decide ((px + 64 - xx) % 64 < 8) = false := by simp; omega
      rw [d1, d2, d3, d4]
      simp
  · have d1 : decide (px / 8 = xx / 8) = false := by simpa using h1
    by_cases h2 : px / 8 = (xx / 8 + 1) % 8
    · have d2 : decide (px / 8 = (xx / 8 + 1) % 8) = true := by simpa using h2
      by_cases h3 : px % 8 < xx % 8
      · have e : (px + 64 - xx) % 64 = px % 8 + 8 - xx % 8 := by omega
        have d3 : decide (px % 8 < xx % 8) = true := by simpa using h3
        have d4 : decide (px % 8 + 8 - xx % 8 < 8) = true := by simp; omega
        have d5 : decide (xx + (px % 8 + 8 - xx % 8) < 64) = decide (xx / 8 + 1 ≤ 7) := by
          congr 1
          apply propext
          omega
        rw [d1, d2, d3, e, d4, d5]
        cases clipping <;> simp
      · have d3 : decide (px % 8 < xx % 8) = false := by simpa using h3
        have d4 : decide ((px + 64 - xx) % 64 < 8) = false := by simp; omega
        rw [d1, d2, d3, d4]
        simp
    · have d2 : decide (px / 8 = (xx / 8 + 1) % 8) = false := by simpa using h2
      have d4 : decide ((px + 64 - xx) % 64 < 8) = false := by simp; omega
      rw [d1, d2, d4]
      simp

/-- A pixel after one sprite row (R247): the row's bits are XORed into display row `r`, nothing else. -/
theorem Blit.row_pixel (clipping : Bool) {xx r : Nat} (hxx : xx < 64) (hr : r < 32) (b : Byte) (d : Blit) {px py : Nat}
    (hx : px < 64) :
    pixelOf (Blit.row clipping xx r b d).display px py =
      (pixelOf d.display px py ^^ (decide (py = r) && rowBit clipping xx b px)) := by
  rw [rowBit_halves clipping hxx hx]
  unfold Blit.row
  by_cases hc : xx / 8 + 1 ≤ 7 ∨ clipping = false
  · have dc : decide (xx / 8 + 1 ≤ 7 ∨ clipping = false) = true := decide_eq_true hc
    simp only [if_pos hc]
    rw [Blit.xorPart_pixel _ (by omega) hr _ hx, Blit.xorPart_pixel _ (by omega) hr _ hx, dc]
    by_cases hp : py = r <;> simp [hp]
  · have dc : decide (xx / 8 + 1 ≤ 7 ∨ clipping = false) = false := decide_eq_false hc
    simp only [if_neg hc]
    rw [Blit.xorPart_pixel _ (by omega) hr _ hx, dc]
    by_cases hp : py = r <;> simp [hp]

/-- The collision of one sprite row (R248): a lit pixel of display row `r` that the row has set. -/
theorem Blit.row_collision (clipping : Bool) {xx r : Nat} (hxx : xx < 64) (hr : r < 32) (b : Byte) (d : Blit) :
    (Blit.row clipping xx r b d).collision = true ↔
      d.collision = true ∨
        ∃ px, px < 64 ∧ pixelOf d.display px r = true ∧ rowBit clipping xx b px = true := by
  have cols : ∀ px, px / 8 = xx / 8 → decide (px / 8 = (xx / 8 + 1) % 8) = false := by
    intro px h
    simp
    omega
  have cols' : ∀ px, px / 8 = (xx / 8 + 1) % 8 → decide (px / 8 = xx / 8) = false := by
    intro px h
    simp
    omega
  unfold Blit.row
  by_cases hc : xx / 8 + 1 ≤ 7 ∨ clipping = false
  · have dc : decide (xx / 8 + 1 ≤ 7 ∨ clipping = false) = true := decide_eq_true hc
    simp only [if_pos hc]
    rw [Blit.xorPart_collision _ (by omega), Blit.xorPart_collision _ (by omega)]
    constructor
    · rintro ((h | ⟨px, h1, h2, h3, h4⟩) | ⟨px, h1, h2, h3, h4⟩)
      · exact .inl h
      · refine .inr ⟨px, h1, h3, ?_⟩
        rw [rowBit_halves clipping hxx h1, dc, cols px h2, decide_eq_true h2, h4]
        rfl
      · refine .inr ⟨px, h1, ?_, ?_⟩
        · rw [Blit.xorPart_pixel _ (by omega) hr _ h1, cols' px h2] at h3
          simpa using h3
        · rw [rowBit_halves clipping hxx h1, dc, cols' px h2, decide_eq_true h2, h4]
          rfl
    · rintro (h | ⟨px, h1, h3, h4⟩)
      · exact .inl (.inl h)
      · rw [rowBit_halves clipping hxx h1, dc] at h4
        by_cases h2 : px / 8 = xx / 8
        · rw [cols px h2, decide_eq_true h2] at h4
          exact .inl (.inr ⟨px, h1, h2, h3, by simpa using h4⟩)
        · rw [decide_eq_false h2] at h4
          simp only [Bool.false_and, Bool.false_xor, Bool.true_and, Bool.and_eq_true, decide_eq_true_eq] at h4
          refine .inr ⟨px, h1, h4.1, ?_, h4.2⟩
          rw [Blit.xorPart_pixel _ (by omega) hr _ h1, decide_eq_false h2]
          simpa using h3
  · have dc : decide (xx / 8 + 1 ≤ 7 ∨ clipping = false) = false := decide_eq_false hc
    simp only [if_neg hc]
    rw [Blit.xorPart_collision _ (by omega)]
    constructor
    · rintro (h | ⟨px, h1, h2, h3, h4⟩)
      · exact .inl h
      · refine .inr ⟨px, h1, h3, ?_⟩
        rw [rowBit_halves clipping hxx h1, dc, decide_eq_true h2, h4]
        rfl
    · rintro (h | ⟨px, h1, h3, h4⟩)
      · exact .inl h
      · rw [rowBit_halves clipping hxx h1, dc] at h4
        simp only [Bool.false_and, Bool.xor_false, Bool.and_eq_true, decide_eq_true_eq] at h4
        exact .inr ⟨px, h1, h4.1, h3, h4.2⟩

/-- The bit a sprite's rows from row `i` on put at a pixel. -/
def rowsBit (clipping : Bool) (xx yy : Nat) : List Byte → Nat → Nat → Nat → Bool
  | [], _, _, _ => false
  | b :: bs, i, px, py =>
    (decide (py = (yy + i) % 32) && rowBit clipping xx b px) ^^ rowsBit clipping xx yy bs (i + 1) px py

/-- A pixel after the row loop (R244 step 5). -/
theorem Blit.rows_pixel (clipping : Bool) {xx : Nat} (hxx : xx < 64) (yy : Nat) (bs : List Byte) (i : Nat) (d : Blit)
    {px py : Nat} (hx : px < 64) :
    pixelOf (Blit.rows clipping xx yy bs i d).display px py =
      (pixelOf d.display px py ^^ rowsBit clipping xx yy bs i px py) := by
  induction bs generalizing i d with
  | nil => simp [Blit.rows, rowsBit]
  | cons b bs ih =>
    have hm : (yy + i) % displayHeight < 32 := Nat.mod_lt _ (by decide)
    rw [Blit.rows, ih, Blit.row_pixel clipping hxx hm b d hx]
    simp only [rowsBit, Bool.xor_assoc]
    rfl

/-- What at most 32 rows put at a pixel: the bit of the one row that reaches it. -/
theorem rowsBit_eq (clipping : Bool) (xx yy : Nat) (bs : List Byte) (i : Nat) (hl : i + bs.length ≤ 32) (px : Nat)
    {py : Nat} (hy : py < 32) :
    rowsBit clipping xx yy bs i px py = true ↔
      ∃ k, ∃ h : k < bs.length, py = (yy + i + k) % 32 ∧ rowBit clipping xx bs[k] px = true := by
  induction bs generalizing i with
  | nil => simp [rowsBit]
  | cons b bs ih =>
    simp only [List.length_cons] at hl
    have key : rowsBit clipping xx yy bs (i + 1) px py = true → ¬ py = (yy + i) % 32 := by
      rw [ih (i + 1) (by omega)]
      rintro ⟨k, hk, he, _⟩ hc
      omega
    rw [rowsBit]
    constructor
    · intro h
      by_cases hr : rowsBit clipping xx yy bs (i + 1) px py = true
      · obtain ⟨k, hk, he, hb⟩ := (ih (i + 1) (by omega)).mp hr
        exact ⟨k + 1, by simpa using hk, by omega, by simpa using hb⟩
      · simp only [hr, Bool.xor_false, Bool.and_eq_true, decide_eq_true_eq] at h
        exact ⟨0, by simp, by simpa using h.1, by simpa using h.2⟩
    · rintro ⟨k, hk, he, hb⟩
      cases k with
      | zero =>
        have hpy : py = (yy + i) % 32 := by simpa using he
        have hn : rowsBit clipping xx yy bs (i + 1) px py = false := by
          by_contra hc
          exact key (by simpa using hc) hpy
        have hb' : rowBit clipping xx b px = true := by simpa using hb
        simp [hn, hb', ← hpy]
      | succ k =>
        have hr : rowsBit clipping xx yy bs (i + 1) px py = true :=
          (ih (i + 1) (by omega)).mpr ⟨k, by simpa using hk, by omega, by simpa using hb⟩
        have hn := key hr
        simp [hr, hn]

/-- The collision of the row loop (R248): a lit pixel that one of the rows has set, for at most 32 rows. -/
theorem Blit.rows_collision (clipping : Bool) {xx : Nat} (hxx : xx < 64) (yy : Nat) (bs : List Byte) (i : Nat)
    (hl : i + bs.length ≤ 32) (d : Blit) :
    (Blit.rows clipping xx yy bs i d).collision = true ↔
      d.collision = true ∨
        ∃ px py, px < 64 ∧ py < 32 ∧ pixelOf d.display px py = true ∧ rowsBit clipping xx yy bs i px py = true := by
  induction bs generalizing i d with
  | nil => simp [Blit.rows, rowsBit]
  | cons b bs ih =>
    simp only [List.length_cons] at hl
    have hm : (yy + i) % 32 < 32 := Nat.mod_lt _ (by decide)
    have key : ∀ px py, py < 32 → rowsBit clipping xx yy bs (i + 1) px py = true → ¬ py = (yy + i) % 32 := by
      intro px py hy
      rw [rowsBit_eq clipping xx yy bs (i + 1) (by omega) px hy]
      rintro ⟨k, hk, he, _⟩ hc
      omega
    rw [Blit.rows, ih (i + 1) (by omega), Blit.row_collision clipping hxx (by simpa [displayHeight] using hm)]
    simp only [displayHeight]
    constructor
    · rintro ((h | ⟨px, h1, h2, h3⟩) | ⟨px, py, h1, h2, h3, h4⟩)
      · exact .inl h
      · refine .inr ⟨px, (yy + i) % 32, h1, hm, h2, ?_⟩
        have hn : rowsBit clipping xx yy bs (i + 1) px ((yy + i) % 32) = false := by
          by_contra hc
          exact key px _ hm (by simpa using hc) rfl
        simp [rowsBit, hn, h3]
      · refine .inr ⟨px, py, h1, h2, ?_, ?_⟩
        · rw [Blit.row_pixel clipping hxx hm b d h1] at h3
          simpa [key px py h2 h4] using h3
        · simp [rowsBit, h4, key px py h2 h4]
    · rintro (h | ⟨px, py, h1, h2, h3, h4⟩)
      · exact .inl (.inl h)
      · by_cases hr : rowsBit clipping xx yy bs (i + 1) px py = true
        · refine .inr ⟨px, py, h1, h2, ?_, hr⟩
          rw [Blit.row_pixel clipping hxx hm b d h1]
          simp [key px py h2 hr, h3]
        · simp only [rowsBit, hr, Bool.xor_false, Bool.and_eq_true, decide_eq_true_eq] at h4
          obtain ⟨rfl, h5⟩ := h4
          exact .inl (.inr ⟨px, h1, h3, h5⟩)

end Sys2Proof.Machine
end

