-- ==== Sys2Proof/Laws/State.lean ====
section
/-! SUPPORT. The small lemmas of the state's updates: one per field per update, true by unfolding, so that no later
proof unfolds a record update. -/

namespace Sys2Proof.Machine

@[simp] theorem State.setReg_v (s : State) (r : Nibble) (b : Byte) : (s.setReg r b).v = s.v.set r.toNat b r.isLt := rfl
@[simp] theorem State.setReg_pc (s : State) (r : Nibble) (b : Byte) : (s.setReg r b).pc = s.pc := rfl
@[simp] theorem State.setReg_index (s : State) (r : Nibble) (b : Byte) : (s.setReg r b).index = s.index := rfl
@[simp] theorem State.setReg_stack (s : State) (r : Nibble) (b : Byte) : (s.setReg r b).stack = s.stack := rfl
@[simp] theorem State.setReg_delay (s : State) (r : Nibble) (b : Byte) : (s.setReg r b).delay = s.delay := rfl
@[simp] theorem State.setReg_sound (s : State) (r : Nibble) (b : Byte) : (s.setReg r b).sound = s.sound := rfl
@[simp] theorem State.setReg_displayWaitLatch (s : State) (r : Nibble) (b : Byte) : (s.setReg r b).displayWaitLatch = s.displayWaitLatch := rfl
@[simp] theorem State.setReg_keyReleaseLatch (s : State) (r : Nibble) (b : Byte) : (s.setReg r b).keyReleaseLatch = s.keyReleaseLatch := rfl
@[simp] theorem State.setReg_dirty (s : State) (r : Nibble) (b : Byte) : (s.setReg r b).dirty = s.dirty := rfl
@[simp] theorem State.setReg_cadence (s : State) (r : Nibble) (b : Byte) : (s.setReg r b).cadence = s.cadence := rfl
@[simp] theorem State.setReg_halted (s : State) (r : Nibble) (b : Byte) : (s.setReg r b).halted = s.halted := rfl
@[simp] theorem State.setReg_display (s : State) (r : Nibble) (b : Byte) : (s.setReg r b).display = s.display := rfl
@[simp] theorem State.setReg_keys (s : State) (r : Nibble) (b : Byte) : (s.setReg r b).keys = s.keys := rfl
@[simp] theorem State.setReg_mem (s : State) (r : Nibble) (b : Byte) : (s.setReg r b).mem = s.mem := rfl
@[simp] theorem State.setReg_decodeCache (s : State) (r : Nibble) (b : Byte) : (s.setReg r b).decodeCache = s.decodeCache := rfl
@[simp] theorem State.setReg_blockCache (s : State) (r : Nibble) (b : Byte) : (s.setReg r b).blockCache = s.blockCache := rfl
@[simp] theorem State.setReg_config (s : State) (r : Nibble) (b : Byte) : (s.setReg r b).config = s.config := rfl
@[simp] theorem State.setReg_ia (s : State) (r : Nibble) (b : Byte) : (s.setReg r b).ia = s.ia := rfl
@[simp] theorem State.setReg_rnd (s : State) (r : Nibble) (b : Byte) : (s.setReg r b).rnd = s.rnd := rfl
@[simp] theorem State.setReg_evals (s : State) (r : Nibble) (b : Byte) : (s.setReg r b).evals = s.evals := rfl

@[simp] theorem State.setVf_v (s : State) (b : Byte) : (s.setVf b).v = s.v.set 15 b := rfl
@[simp] theorem State.setVf_pc (s : State) (b : Byte) : (s.setVf b).pc = s.pc := rfl
@[simp] theorem State.setVf_index (s : State) (b : Byte) : (s.setVf b).index = s.index := rfl
@[simp] theorem State.setVf_stack (s : State) (b : Byte) : (s.setVf b).stack = s.stack := rfl
@[simp] theorem State.setVf_delay (s : State) (b : Byte) : (s.setVf b).delay = s.delay := rfl
@[simp] theorem State.setVf_sound (s : State) (b : Byte) : (s.setVf b).sound = s.sound := rfl
@[simp] theorem State.setVf_displayWaitLatch (s : State) (b : Byte) : (s.setVf b).displayWaitLatch = s.displayWaitLatch := rfl
@[simp] theorem State.setVf_keyReleaseLatch (s : State) (b : Byte) : (s.setVf b).keyReleaseLatch = s.keyReleaseLatch := rfl
@[simp] theorem State.setVf_dirty (s : State) (b : Byte) : (s.setVf b).dirty = s.dirty := rfl
@[simp] theorem State.setVf_cadence (s : State) (b : Byte) : (s.setVf b).cadence = s.cadence := rfl
@[simp] theorem State.setVf_halted (s : State) (b : Byte) : (s.setVf b).halted = s.halted := rfl
@[simp] theorem State.setVf_display (s : State) (b : Byte) : (s.setVf b).display = s.display := rfl
@[simp] theorem State.setVf_keys (s : State) (b : Byte) : (s.setVf b).keys = s.keys := rfl
@[simp] theorem State.setVf_mem (s : State) (b : Byte) : (s.setVf b).mem = s.mem := rfl
@[simp] theorem State.setVf_decodeCache (s : State) (b : Byte) : (s.setVf b).decodeCache = s.decodeCache := rfl
@[simp] theorem State.setVf_blockCache (s : State) (b : Byte) : (s.setVf b).blockCache = s.blockCache := rfl
@[simp] theorem State.setVf_config (s : State) (b : Byte) : (s.setVf b).config = s.config := rfl
@[simp] theorem State.setVf_ia (s : State) (b : Byte) : (s.setVf b).ia = s.ia := rfl
@[simp] theorem State.setVf_rnd (s : State) (b : Byte) : (s.setVf b).rnd = s.rnd := rfl
@[simp] theorem State.setVf_evals (s : State) (b : Byte) : (s.setVf b).evals = s.evals := rfl

@[simp] theorem State.setPc_v (s : State) (a : Addr) : (s.setPc a).v = s.v := rfl
@[simp] theorem State.setPc_pc (s : State) (a : Addr) : (s.setPc a).pc = a := rfl
@[simp] theorem State.setPc_index (s : State) (a : Addr) : (s.setPc a).index = s.index := rfl
@[simp] theorem State.setPc_stack (s : State) (a : Addr) : (s.setPc a).stack = s.stack := rfl
@[simp] theorem State.setPc_delay (s : State) (a : Addr) : (s.setPc a).delay = s.delay := rfl
@[simp] theorem State.setPc_sound (s : State) (a : Addr) : (s.setPc a).sound = s.sound := rfl
@[simp] theorem State.setPc_displayWaitLatch (s : State) (a : Addr) : (s.setPc a).displayWaitLatch = s.displayWaitLatch := rfl
@[simp] theorem State.setPc_keyReleaseLatch (s : State) (a : Addr) : (s.setPc a).keyReleaseLatch = s.keyReleaseLatch := rfl
@[simp] theorem State.setPc_dirty (s : State) (a : Addr) : (s.setPc a).dirty = s.dirty := rfl
@[simp] theorem State.setPc_cadence (s : State) (a : Addr) : (s.setPc a).cadence = s.cadence := rfl
@[simp] theorem State.setPc_halted (s : State) (a : Addr) : (s.setPc a).halted = s.halted := rfl
@[simp] theorem State.setPc_display (s : State) (a : Addr) : (s.setPc a).display = s.display := rfl
@[simp] theorem State.setPc_keys (s : State) (a : Addr) : (s.setPc a).keys = s.keys := rfl
@[simp] theorem State.setPc_mem (s : State) (a : Addr) : (s.setPc a).mem = s.mem := rfl
@[simp] theorem State.setPc_decodeCache (s : State) (a : Addr) : (s.setPc a).decodeCache = s.decodeCache := rfl
@[simp] theorem State.setPc_blockCache (s : State) (a : Addr) : (s.setPc a).blockCache = s.blockCache := rfl
@[simp] theorem State.setPc_config (s : State) (a : Addr) : (s.setPc a).config = s.config := rfl
@[simp] theorem State.setPc_ia (s : State) (a : Addr) : (s.setPc a).ia = s.ia := rfl
@[simp] theorem State.setPc_rnd (s : State) (a : Addr) : (s.setPc a).rnd = s.rnd := rfl
@[simp] theorem State.setPc_evals (s : State) (a : Addr) : (s.setPc a).evals = s.evals := rfl
@[simp] theorem State.setPc_reg (s : State) (a : Addr) (q : Nibble) : (s.setPc a).reg q = s.reg q := rfl

@[simp] theorem State.setIndex_v (s : State) (a : Addr) : (s.setIndex a).v = s.v := rfl
@[simp] theorem State.setIndex_pc (s : State) (a : Addr) : (s.setIndex a).pc = s.pc := rfl
@[simp] theorem State.setIndex_index (s : State) (a : Addr) : (s.setIndex a).index = a := rfl
@[simp] theorem State.setIndex_stack (s : State) (a : Addr) : (s.setIndex a).stack = s.stack := rfl
@[simp] theorem State.setIndex_delay (s : State) (a : Addr) : (s.setIndex a).delay = s.delay := rfl
@[simp] theorem State.setIndex_sound (s : State) (a : Addr) : (s.setIndex a).sound = s.sound := rfl
@[simp] theorem State.setIndex_displayWaitLatch (s : State) (a : Addr) : (s.setIndex a).displayWaitLatch = s.displayWaitLatch := rfl
@[simp] theorem State.setIndex_keyReleaseLatch (s : State) (a : Addr) : (s.setIndex a).keyReleaseLatch = s.keyReleaseLatch := rfl
@[simp] theorem State.setIndex_dirty (s : State) (a : Addr) : (s.setIndex a).dirty = s.dirty := rfl
@[simp] theorem State.setIndex_cadence (s : State) (a : Addr) : (s.setIndex a).cadence = s.cadence := rfl
@[simp] theorem State.setIndex_halted (s : State) (a : Addr) : (s.setIndex a).halted = s.halted := rfl
@[simp] theorem State.setIndex_display (s : State) (a : Addr) : (s.setIndex a).display = s.display := rfl
@[simp] theorem State.setIndex_keys (s : State) (a : Addr) : (s.setIndex a).keys = s.keys := rfl
@[simp] theorem State.setIndex_mem (s : State) (a : Addr) : (s.setIndex a).mem = s.mem := rfl
@[simp] theorem State.setIndex_decodeCache (s : State) (a : Addr) : (s.setIndex a).decodeCache = s.decodeCache := rfl
@[simp] theorem State.setIndex_blockCache (s : State) (a : Addr) : (s.setIndex a).blockCache = s.blockCache := rfl
@[simp] theorem State.setIndex_config (s : State) (a : Addr) : (s.setIndex a).config = s.config := rfl
@[simp] theorem State.setIndex_ia (s : State) (a : Addr) : (s.setIndex a).ia = s.ia := rfl
@[simp] theorem State.setIndex_rnd (s : State) (a : Addr) : (s.setIndex a).rnd = s.rnd := rfl
@[simp] theorem State.setIndex_evals (s : State) (a : Addr) : (s.setIndex a).evals = s.evals := rfl
@[simp] theorem State.setIndex_reg (s : State) (a : Addr) (q : Nibble) : (s.setIndex a).reg q = s.reg q := rfl

@[simp] theorem State.setDelay_v (s : State) (b : Byte) : (s.setDelay b).v = s.v := rfl
@[simp] theorem State.setDelay_pc (s : State) (b : Byte) : (s.setDelay b).pc = s.pc := rfl
@[simp] theorem State.setDelay_index (s : State) (b : Byte) : (s.setDelay b).index = s.index := rfl
@[simp] theorem State.setDelay_stack (s : State) (b : Byte) : (s.setDelay b).stack = s.stack := rfl
@[simp] theorem State.setDelay_delay (s : State) (b : Byte) : (s.setDelay b).delay = b := rfl
@[simp] theorem State.setDelay_sound (s : State) (b : Byte) : (s.setDelay b).sound = s.sound := rfl
@[simp] theorem State.setDelay_displayWaitLatch (s : State) (b : Byte) : (s.setDelay b).displayWaitLatch = s.displayWaitLatch := rfl
@[simp] theorem State.setDelay_keyReleaseLatch (s : State) (b : Byte) : (s.setDelay b).keyReleaseLatch = s.keyReleaseLatch := rfl
@[simp] theorem State.setDelay_dirty (s : State) (b : Byte) : (s.setDelay b).dirty = s.dirty := rfl
@[simp] theorem State.setDelay_cadence (s : State) (b : Byte) : (s.setDelay b).cadence = s.cadence := rfl
@[simp] theorem State.setDelay_halted (s : State) (b : Byte) : (s.setDelay b).halted = s.halted := rfl
@[simp] theorem State.setDelay_display (s : State) (b : Byte) : (s.setDelay b).display = s.display := rfl
@[simp] theorem State.setDelay_keys (s : State) (b : Byte) : (s.setDelay b).keys = s.keys := rfl
@[simp] theorem State.setDelay_mem (s : State) (b : Byte) : (s.setDelay b).mem = s.mem := rfl
@[simp] theorem State.setDelay_decodeCache (s : State) (b : Byte) : (s.setDelay b).decodeCache = s.decodeCache := rfl
@[simp] theorem State.setDelay_blockCache (s : State) (b : Byte) : (s.setDelay b).blockCache = s.blockCache := rfl
@[simp] theorem State.setDelay_config (s : State) (b : Byte) : (s.setDelay b).config = s.config := rfl
@[simp] theorem State.setDelay_ia (s : State) (b : Byte) : (s.setDelay b).ia = s.ia := rfl
@[simp] theorem State.setDelay_rnd (s : State) (b : Byte) : (s.setDelay b).rnd = s.rnd := rfl
@[simp] theorem State.setDelay_evals (s : State) (b : Byte) : (s.setDelay b).evals = s.evals := rfl
@[simp] theorem State.setDelay_reg (s : State) (b : Byte) (q : Nibble) : (s.setDelay b).reg q = s.reg q := rfl

@[simp] theorem State.setSound_v (s : State) (b : Byte) : (s.setSound b).v = s.v := rfl
@[simp] theorem State.setSound_pc (s : State) (b : Byte) : (s.setSound b).pc = s.pc := rfl
@[simp] theorem State.setSound_index (s : State) (b : Byte) : (s.setSound b).index = s.index := rfl
@[simp] theorem State.setSound_stack (s : State) (b : Byte) : (s.setSound b).stack = s.stack := rfl
@[simp] theorem State.setSound_delay (s : State) (b : Byte) : (s.setSound b).delay = s.delay := rfl
@[simp] theorem State.setSound_sound (s : State) (b : Byte) : (s.setSound b).sound = b := rfl
@[simp] theorem State.setSound_displayWaitLatch (s : State) (b : Byte) : (s.setSound b).displayWaitLatch = s.displayWaitLatch := rfl
@[simp] theorem State.setSound_keyReleaseLatch (s : State) (b : Byte) : (s.setSound b).keyReleaseLatch = s.keyReleaseLatch := rfl
@[simp] theorem State.setSound_dirty (s : State) (b : Byte) : (s.setSound b).dirty = s.dirty := rfl
@[simp] theorem State.setSound_cadence (s : State) (b : Byte) : (s.setSound b).cadence = s.cadence := rfl
@[simp] theorem State.setSound_halted (s : State) (b : Byte) : (s.setSound b).halted = s.halted := rfl
@[simp] theorem State.setSound_display (s : State) (b : Byte) : (s.setSound b).display = s.display := rfl
@[simp] theorem State.setSound_keys (s : State) (b : Byte) : (s.setSound b).keys = s.keys := rfl
@[simp] theorem State.setSound_mem (s : State) (b : Byte) : (s.setSound b).mem = s.mem := rfl
@[simp] theorem State.setSound_decodeCache (s : State) (b : Byte) : (s.setSound b).decodeCache = s.decodeCache := rfl
@[simp] theorem State.setSound_blockCache (s : State) (b : Byte) : (s.setSound b).blockCache = s.blockCache := rfl
@[simp] theorem State.setSound_config (s : State) (b : Byte) : (s.setSound b).config = s.config := rfl
@[simp] theorem State.setSound_ia (s : State) (b : Byte) : (s.setSound b).ia = s.ia := rfl
@[simp] theorem State.setSound_rnd (s : State) (b : Byte) : (s.setSound b).rnd = s.rnd := rfl
@[simp] theorem State.setSound_evals (s : State) (b : Byte) : (s.setSound b).evals = s.evals := rfl
@[simp] theorem State.setSound_reg (s : State) (b : Byte) (q : Nibble) : (s.setSound b).reg q = s.reg q := rfl

@[simp] theorem State.setDisplayWaitLatch_v (s : State) (b : Bool) : (s.setDisplayWaitLatch b).v = s.v := rfl
@[simp] theorem State.setDisplayWaitLatch_pc (s : State) (b : Bool) : (s.setDisplayWaitLatch b).pc = s.pc := rfl
@[simp] theorem State.setDisplayWaitLatch_index (s : State) (b : Bool) : (s.setDisplayWaitLatch b).index = s.index := rfl
@[simp] theorem State.setDisplayWaitLatch_stack (s : State) (b : Bool) : (s.setDisplayWaitLatch b).stack = s.stack := rfl
@[simp] theorem State.setDisplayWaitLatch_delay (s : State) (b : Bool) : (s.setDisplayWaitLatch b).delay = s.delay := rfl
@[simp] theorem State.setDisplayWaitLatch_sound (s : State) (b : Bool) : (s.setDisplayWaitLatch b).sound = s.sound := rfl
@[simp] theorem State.setDisplayWaitLatch_displayWaitLatch (s : State) (b : Bool) : (s.setDisplayWaitLatch b).displayWaitLatch = b := rfl
@[simp] theorem State.setDisplayWaitLatch_keyReleaseLatch (s : State) (b : Bool) : (s.setDisplayWaitLatch b).keyReleaseLatch = s.keyReleaseLatch := rfl
@[simp] theorem State.setDisplayWaitLatch_dirty (s : State) (b : Bool) : (s.setDisplayWaitLatch b).dirty = s.dirty := rfl
@[simp] theorem State.setDisplayWaitLatch_cadence (s : State) (b : Bool) : (s.setDisplayWaitLatch b).cadence = s.cadence := rfl
@[simp] theorem State.setDisplayWaitLatch_halted (s : State) (b : Bool) : (s.setDisplayWaitLatch b).halted = s.halted := rfl
@[simp] theorem State.setDisplayWaitLatch_display (s : State) (b : Bool) : (s.setDisplayWaitLatch b).display = s.display := rfl
@[simp] theorem State.setDisplayWaitLatch_keys (s : State) (b : Bool) : (s.setDisplayWaitLatch b).keys = s.keys := rfl
@[simp] theorem State.setDisplayWaitLatch_mem (s : State) (b : Bool) : (s.setDisplayWaitLatch b).mem = s.mem := rfl
@[simp] theorem State.setDisplayWaitLatch_decodeCache (s : State) (b : Bool) : (s.setDisplayWaitLatch b).decodeCache = s.decodeCache := rfl
@[simp] theorem State.setDisplayWaitLatch_blockCache (s : State) (b : Bool) : (s.setDisplayWaitLatch b).blockCache = s.blockCache := rfl
@[simp] theorem State.setDisplayWaitLatch_config (s : State) (b : Bool) : (s.setDisplayWaitLatch b).config = s.config := rfl
@[simp] theorem State.setDisplayWaitLatch_ia (s : State) (b : Bool) : (s.setDisplayWaitLatch b).ia = s.ia := rfl
@[simp] theorem State.setDisplayWaitLatch_rnd (s : State) (b : Bool) : (s.setDisplayWaitLatch b).rnd = s.rnd := rfl
@[simp] theorem State.setDisplayWaitLatch_evals (s : State) (b : Bool) : (s.setDisplayWaitLatch b).evals = s.evals := rfl
@[simp] theorem State.setDisplayWaitLatch_reg (s : State) (b : Bool) (q : Nibble) : (s.setDisplayWaitLatch b).reg q = s.reg q := rfl

@[simp] theorem State.setKeyReleaseLatch_v (s : State) (b : Bool) : (s.setKeyReleaseLatch b).v = s.v := rfl
@[simp] theorem State.setKeyReleaseLatch_pc (s : State) (b : Bool) : (s.setKeyReleaseLatch b).pc = s.pc := rfl
@[simp] theorem State.setKeyReleaseLatch_index (s : State) (b : Bool) : (s.setKeyReleaseLatch b).index = s.index := rfl
@[simp] theorem State.setKeyReleaseLatch_stack (s : State) (b : Bool) : (s.setKeyReleaseLatch b).stack = s.stack := rfl
@[simp] theorem State.setKeyReleaseLatch_delay (s : State) (b : Bool) : (s.setKeyReleaseLatch b).delay = s.delay := rfl
@[simp] theorem State.setKeyReleaseLatch_sound (s : State) (b : Bool) : (s.setKeyReleaseLatch b).sound = s.sound := rfl
@[simp] theorem State.setKeyReleaseLatch_displayWaitLatch (s : State) (b : Bool) : (s.setKeyReleaseLatch b).displayWaitLatch = s.displayWaitLatch := rfl
@[simp] theorem State.setKeyReleaseLatch_keyReleaseLatch (s : State) (b : Bool) : (s.setKeyReleaseLatch b).keyReleaseLatch = b := rfl
@[simp] theorem State.setKeyReleaseLatch_dirty (s : State) (b : Bool) : (s.setKeyReleaseLatch b).dirty = s.dirty := rfl
@[simp] theorem State.setKeyReleaseLatch_cadence (s : State) (b : Bool) : (s.setKeyReleaseLatch b).cadence = s.cadence := rfl
@[simp] theorem State.setKeyReleaseLatch_halted (s : State) (b : Bool) : (s.setKeyReleaseLatch b).halted = s.halted := rfl
@[simp] theorem State.setKeyReleaseLatch_display (s : State) (b : Bool) : (s.setKeyReleaseLatch b).display = s.display := rfl
@[simp] theorem State.setKeyReleaseLatch_keys (s : State) (b : Bool) : (s.setKeyReleaseLatch b).keys = s.keys := rfl
@[simp] theorem State.setKeyReleaseLatch_mem (s : State) (b : Bool) : (s.setKeyReleaseLatch b).mem = s.mem := rfl
@[simp] theorem State.setKeyReleaseLatch_decodeCache (s : State) (b : Bool) : (s.setKeyReleaseLatch b).decodeCache = s.decodeCache := rfl
@[simp] theorem State.setKeyReleaseLatch_blockCache (s : State) (b : Bool) : (s.setKeyReleaseLatch b).blockCache = s.blockCache := rfl
@[simp] theorem State.setKeyReleaseLatch_config (s : State) (b : Bool) : (s.setKeyReleaseLatch b).config = s.config := rfl
@[simp] theorem State.setKeyReleaseLatch_ia (s : State) (b : Bool) : (s.setKeyReleaseLatch b).ia = s.ia := rfl
@[simp] theorem State.setKeyReleaseLatch_rnd (s : State) (b : Bool) : (s.setKeyReleaseLatch b).rnd = s.rnd := rfl
@[simp] theorem State.setKeyReleaseLatch_evals (s : State) (b : Bool) : (s.setKeyReleaseLatch b).evals = s.evals := rfl
@[simp] theorem State.setKeyReleaseLatch_reg (s : State) (b : Bool) (q : Nibble) : (s.setKeyReleaseLatch b).reg q = s.reg q := rfl

@[simp] theorem State.setDirty_v (s : State) (b : Bool) : (s.setDirty b).v = s.v := rfl
@[simp] theorem State.setDirty_pc (s : State) (b : Bool) : (s.setDirty b).pc = s.pc := rfl
@[simp] theorem State.setDirty_index (s : State) (b : Bool) : (s.setDirty b).index = s.index := rfl
@[simp] theorem State.setDirty_stack (s : State) (b : Bool) : (s.setDirty b).stack = s.stack := rfl
@[simp] theorem State.setDirty_delay (s : State) (b : Bool) : (s.setDirty b).delay = s.delay := rfl
@[simp] theorem State.setDirty_sound (s : State) (b : Bool) : (s.setDirty b).sound = s.sound := rfl
@[simp] theorem State.setDirty_displayWaitLatch (s : State) (b : Bool) : (s.setDirty b).displayWaitLatch = s.displayWaitLatch := rfl
@[simp] theorem State.setDirty_keyReleaseLatch (s : State) (b : Bool) : (s.setDirty b).keyReleaseLatch = s.keyReleaseLatch := rfl
@[simp] theorem State.setDirty_dirty (s : State) (b : Bool) : (s.setDirty b).dirty = b := rfl
@[simp] theorem State.setDirty_cadence (s : State) (b : Bool) : (s.setDirty b).cadence = s.cadence := rfl
@[simp] theorem State.setDirty_halted (s : State) (b : Bool) : (s.setDirty b).halted = s.halted := rfl
@[simp] theorem State.setDirty_display (s : State) (b : Bool) : (s.setDirty b).display = s.display := rfl
@[simp] theorem State.setDirty_keys (s : State) (b : Bool) : (s.setDirty b).keys = s.keys := rfl
@[simp] theorem State.setDirty_mem (s : State) (b : Bool) : (s.setDirty b).mem = s.mem := rfl
@[simp] theorem State.setDirty_decodeCache (s : State) (b : Bool) : (s.setDirty b).decodeCache = s.decodeCache := rfl
@[simp] theorem State.setDirty_blockCache (s : State) (b : Bool) : (s.setDirty b).blockCache = s.blockCache := rfl
@[simp] theorem State.setDirty_config (s : State) (b : Bool) : (s.setDirty b).config = s.config := rfl
@[simp] theorem State.setDirty_ia (s : State) (b : Bool) : (s.setDirty b).ia = s.ia := rfl
@[simp] theorem State.setDirty_rnd (s : State) (b : Bool) : (s.setDirty b).rnd = s.rnd := rfl
@[simp] theorem State.setDirty_evals (s : State) (b : Bool) : (s.setDirty b).evals = s.evals := rfl
@[simp] theorem State.setDirty_reg (s : State) (b : Bool) (q : Nibble) : (s.setDirty b).reg q = s.reg q := rfl

@[simp] theorem State.setDisplay_v (s : State) (d : Vector Byte 256) : (s.setDisplay d).v = s.v := rfl
@[simp] theorem State.setDisplay_pc (s : State) (d : Vector Byte 256) : (s.setDisplay d).pc = s.pc := rfl
@[simp] theorem State.setDisplay_index (s : State) (d : Vector Byte 256) : (s.setDisplay d).index = s.index := rfl
@[simp] theorem State.setDisplay_stack (s : State) (d : Vector Byte 256) : (s.setDisplay d).stack = s.stack := rfl
@[simp] theorem State.setDisplay_delay (s : State) (d : Vector Byte 256) : (s.setDisplay d).delay = s.delay := rfl
@[simp] theorem State.setDisplay_sound (s : State) (d : Vector Byte 256) : (s.setDisplay d).sound = s.sound := rfl
@[simp] theorem State.setDisplay_displayWaitLatch (s : State) (d : Vector Byte 256) : (s.setDisplay d).displayWaitLatch = s.displayWaitLatch := rfl
@[simp] theorem State.setDisplay_keyReleaseLatch (s : State) (d : Vector Byte 256) : (s.setDisplay d).keyReleaseLatch = s.keyReleaseLatch := rfl
@[simp] theorem State.setDisplay_dirty (s : State) (d : Vector Byte 256) : (s.setDisplay d).dirty = s.dirty := rfl
@[simp] theorem State.setDisplay_cadence (s : State) (d : Vector Byte 256) : (s.setDisplay d).cadence = s.cadence := rfl
@[simp] theorem State.setDisplay_halted (s : State) (d : Vector Byte 256) : (s.setDisplay d).halted = s.halted := rfl
@[simp] theorem State.setDisplay_display (s : State) (d : Vector Byte 256) : (s.setDisplay d).display = d := rfl
@[simp] theorem State.setDisplay_keys (s : State) (d : Vector Byte 256) : (s.setDisplay d).keys = s.keys := rfl
@[simp] theorem State.setDisplay_mem (s : State) (d : Vector Byte 256) : (s.setDisplay d).mem = s.mem := rfl
@[simp] theorem State.setDisplay_decodeCache (s : State) (d : Vector Byte 256) : (s.setDisplay d).decodeCache = s.decodeCache := rfl
@[simp] theorem State.setDisplay_blockCache (s : State) (d : Vector Byte 256) : (s.setDisplay d).blockCache = s.blockCache := rfl
@[simp] theorem State.setDisplay_config (s : State) (d : Vector Byte 256) : (s.setDisplay d).config = s.config := rfl
@[simp] theorem State.setDisplay_ia (s : State) (d : Vector Byte 256) : (s.setDisplay d).ia = s.ia := rfl
@[simp] theorem State.setDisplay_rnd (s : State) (d : Vector Byte 256) : (s.setDisplay d).rnd = s.rnd := rfl
@[simp] theorem State.setDisplay_evals (s : State) (d : Vector Byte 256) : (s.setDisplay d).evals = s.evals := rfl
@[simp] theorem State.setDisplay_reg (s : State) (d : Vector Byte 256) (q : Nibble) : (s.setDisplay d).reg q = s.reg q := rfl

@[simp] theorem State.setRegs_v (s : State) (w : Vector Byte 16) : (s.setRegs w).v = w := rfl
@[simp] theorem State.setRegs_pc (s : State) (w : Vector Byte 16) : (s.setRegs w).pc = s.pc := rfl
@[simp] theorem State.setRegs_index (s : State) (w : Vector Byte 16) : (s.setRegs w).index = s.index := rfl
@[simp] theorem State.setRegs_stack (s : State) (w : Vector Byte 16) : (s.setRegs w).stack = s.stack := rfl
@[simp] theorem State.setRegs_delay (s : State) (w : Vector Byte 16) : (s.setRegs w).delay = s.delay := rfl
@[simp] theorem State.setRegs_sound (s : State) (w : Vector Byte 16) : (s.setRegs w).sound = s.sound := rfl
@[simp] theorem State.setRegs_displayWaitLatch (s : State) (w : Vector Byte 16) : (s.setRegs w).displayWaitLatch = s.displayWaitLatch := rfl
@[simp] theorem State.setRegs_keyReleaseLatch (s : State) (w : Vector Byte 16) : (s.setRegs w).keyReleaseLatch = s.keyReleaseLatch := rfl
@[simp] theorem State.setRegs_dirty (s : State) (w : Vector Byte 16) : (s.setRegs w).dirty = s.dirty := rfl
@[simp] theorem State.setRegs_cadence (s : State) (w : Vector Byte 16) : (s.setRegs w).cadence = s.cadence := rfl
@[simp] theorem State.setRegs_halted (s : State) (w : Vector Byte 16) : (s.setRegs w).halted = s.halted := rfl
@[simp] theorem State.setRegs_display (s : State) (w : Vector Byte 16) : (s.setRegs w).display = s.display := rfl
@[simp] theorem State.setRegs_keys (s : State) (w : Vector Byte 16) : (s.setRegs w).keys = s.keys := rfl
@[simp] theorem State.setRegs_mem (s : State) (w : Vector Byte 16) : (s.setRegs w).mem = s.mem := rfl
@[simp] theorem State.setRegs_decodeCache (s : State) (w : Vector Byte 16) : (s.setRegs w).decodeCache = s.decodeCache := rfl
@[simp] theorem State.setRegs_blockCache (s : State) (w : Vector Byte 16) : (s.setRegs w).blockCache = s.blockCache := rfl
@[simp] theorem State.setRegs_config (s : State) (w : Vector Byte 16) : (s.setRegs w).config = s.config := rfl
@[simp] theorem State.setRegs_ia (s : State) (w : Vector Byte 16) : (s.setRegs w).ia = s.ia := rfl
@[simp] theorem State.setRegs_rnd (s : State) (w : Vector Byte 16) : (s.setRegs w).rnd = s.rnd := rfl
@[simp] theorem State.setRegs_evals (s : State) (w : Vector Byte 16) : (s.setRegs w).evals = s.evals := rfl

@[simp] theorem State.setMem_v (s : State) (m : Memory) : (s.setMem m).v = s.v := rfl
@[simp] theorem State.setMem_pc (s : State) (m : Memory) : (s.setMem m).pc = s.pc := rfl
@[simp] theorem State.setMem_index (s : State) (m : Memory) : (s.setMem m).index = s.index := rfl
@[simp] theorem State.setMem_stack (s : State) (m : Memory) : (s.setMem m).stack = s.stack := rfl
@[simp] theorem State.setMem_delay (s : State) (m : Memory) : (s.setMem m).delay = s.delay := rfl
@[simp] theorem State.setMem_sound (s : State) (m : Memory) : (s.setMem m).sound = s.sound := rfl
@[simp] theorem State.setMem_displayWaitLatch (s : State) (m : Memory) : (s.setMem m).displayWaitLatch = s.displayWaitLatch := rfl
@[simp] theorem State.setMem_keyReleaseLatch (s : State) (m : Memory) : (s.setMem m).keyReleaseLatch = s.keyReleaseLatch := rfl
@[simp] theorem State.setMem_dirty (s : State) (m : Memory) : (s.setMem m).dirty = s.dirty := rfl
@[simp] theorem State.setMem_cadence (s : State) (m : Memory) : (s.setMem m).cadence = s.cadence := rfl
@[simp] theorem State.setMem_halted (s : State) (m : Memory) : (s.setMem m).halted = s.halted := rfl
@[simp] theorem State.setMem_display (s : State) (m : Memory) : (s.setMem m).display = s.display := rfl
@[simp] theorem State.setMem_keys (s : State) (m : Memory) : (s.setMem m).keys = s.keys := rfl
@[simp] theorem State.setMem_mem (s : State) (m : Memory) : (s.setMem m).mem = m := rfl
@[simp] theorem State.setMem_decodeCache (s : State) (m : Memory) : (s.setMem m).decodeCache = s.decodeCache := rfl
@[simp] theorem State.setMem_blockCache (s : State) (m : Memory) : (s.setMem m).blockCache = s.blockCache := rfl
@[simp] theorem State.setMem_config (s : State) (m : Memory) : (s.setMem m).config = s.config := rfl
@[simp] theorem State.setMem_ia (s : State) (m : Memory) : (s.setMem m).ia = s.ia := rfl
@[simp] theorem State.setMem_rnd (s : State) (m : Memory) : (s.setMem m).rnd = s.rnd := rfl
@[simp] theorem State.setMem_evals (s : State) (m : Memory) : (s.setMem m).evals = s.evals := rfl
@[simp] theorem State.setMem_reg (s : State) (m : Memory) (q : Nibble) : (s.setMem m).reg q = s.reg q := rfl

@[simp] theorem State.setKeys_v (s : State) (k : Vector Byte 2) : (s.setKeys k).v = s.v := rfl
@[simp] theorem State.setKeys_pc (s : State) (k : Vector Byte 2) : (s.setKeys k).pc = s.pc := rfl
@[simp] theorem State.setKeys_index (s : State) (k : Vector Byte 2) : (s.setKeys k).index = s.index := rfl
@[simp] theorem State.setKeys_stack (s : State) (k : Vector Byte 2) : (s.setKeys k).stack = s.stack := rfl
@[simp] theorem State.setKeys_delay (s : State) (k : Vector Byte 2) : (s.setKeys k).delay = s.delay := rfl
@[simp] theorem State.setKeys_sound (s : State) (k : Vector Byte 2) : (s.setKeys k).sound = s.sound := rfl
@[simp] theorem State.setKeys_displayWaitLatch (s : State) (k : Vector Byte 2) : (s.setKeys k).displayWaitLatch = s.displayWaitLatch := rfl
@[simp] theorem State.setKeys_keyReleaseLatch (s : State) (k : Vector Byte 2) : (s.setKeys k).keyReleaseLatch = s.keyReleaseLatch := rfl
@[simp] theorem State.setKeys_dirty (s : State) (k : Vector Byte 2) : (s.setKeys k).dirty = s.dirty := rfl
@[simp] theorem State.setKeys_cadence (s : State) (k : Vector Byte 2) : (s.setKeys k).cadence = s.cadence := rfl
@[simp] theorem State.setKeys_halted (s : State) (k : Vector Byte 2) : (s.setKeys k).halted = s.halted := rfl
@[simp] theorem State.setKeys_display (s : State) (k : Vector Byte 2) : (s.setKeys k).display = s.display := rfl
@[simp] theorem State.setKeys_keys (s : State) (k : Vector Byte 2) : (s.setKeys k).keys = k := rfl
@[simp] theorem State.setKeys_mem (s : State) (k : Vector Byte 2) : (s.setKeys k).mem = s.mem := rfl
@[simp] theorem State.setKeys_decodeCache (s : State) (k : Vector Byte 2) : (s.setKeys k).decodeCache = s.decodeCache := rfl
@[simp] theorem State.setKeys_blockCache (s : State) (k : Vector Byte 2) : (s.setKeys k).blockCache = s.blockCache := rfl
@[simp] theorem State.setKeys_config (s : State) (k : Vector Byte 2) : (s.setKeys k).config = s.config := rfl
@[simp] theorem State.setKeys_ia (s : State) (k : Vector Byte 2) : (s.setKeys k).ia = s.ia := rfl
@[simp] theorem State.setKeys_rnd (s : State) (k : Vector Byte 2) : (s.setKeys k).rnd = s.rnd := rfl
@[simp] theorem State.setKeys_evals (s : State) (k : Vector Byte 2) : (s.setKeys k).evals = s.evals := rfl
@[simp] theorem State.setKeys_reg (s : State) (k : Vector Byte 2) (q : Nibble) : (s.setKeys k).reg q = s.reg q := rfl

@[simp] theorem State.setCadence_v (s : State) (n : Nat) : (s.setCadence n).v = s.v := rfl
@[simp] theorem State.setCadence_pc (s : State) (n : Nat) : (s.setCadence n).pc = s.pc := rfl
@[simp] theorem State.setCadence_index (s : State) (n : Nat) : (s.setCadence n).index = s.index := rfl
@[simp] theorem State.setCadence_stack (s : State) (n : Nat) : (s.setCadence n).stack = s.stack := rfl
@[simp] theorem State.setCadence_delay (s : State) (n : Nat) : (s.setCadence n).delay = s.delay := rfl
@[simp] theorem State.setCadence_sound (s : State) (n : Nat) : (s.setCadence n).sound = s.sound := rfl
@[simp] theorem State.setCadence_displayWaitLatch (s : State) (n : Nat) : (s.setCadence n).displayWaitLatch = s.displayWaitLatch := rfl
@[simp] theorem State.setCadence_keyReleaseLatch (s : State) (n : Nat) : (s.setCadence n).keyReleaseLatch = s.keyReleaseLatch := rfl
@[simp] theorem State.setCadence_dirty (s : State) (n : Nat) : (s.setCadence n).dirty = s.dirty := rfl
@[simp] theorem State.setCadence_cadence (s : State) (n : Nat) : (s.setCadence n).cadence = n := rfl
@[simp] theorem State.setCadence_halted (s : State) (n : Nat) : (s.setCadence n).halted = s.halted := rfl
@[simp] theorem State.setCadence_display (s : State) (n : Nat) : (s.setCadence n).display = s.display := rfl
@[simp] theorem State.setCadence_keys (s : State) (n : Nat) : (s.setCadence n).keys = s.keys := rfl
@[simp] theorem State.setCadence_mem (s : State) (n : Nat) : (s.setCadence n).mem = s.mem := rfl
@[simp] theorem State.setCadence_decodeCache (s : State) (n : Nat) : (s.setCadence n).decodeCache = s.decodeCache := rfl
@[simp] theorem State.setCadence_blockCache (s : State) (n : Nat) : (s.setCadence n).blockCache = s.blockCache := rfl
@[simp] theorem State.setCadence_config (s : State) (n : Nat) : (s.setCadence n).config = s.config := rfl
@[simp] theorem State.setCadence_ia (s : State) (n : Nat) : (s.setCadence n).ia = s.ia := rfl
@[simp] theorem State.setCadence_rnd (s : State) (n : Nat) : (s.setCadence n).rnd = s.rnd := rfl
@[simp] theorem State.setCadence_evals (s : State) (n : Nat) : (s.setCadence n).evals = s.evals := rfl
@[simp] theorem State.setCadence_reg (s : State) (n : Nat) (q : Nibble) : (s.setCadence n).reg q = s.reg q := rfl

@[simp] theorem State.setIa_v (s : State) (a : Addr) : (s.setIa a).v = s.v := rfl
@[simp] theorem State.setIa_pc (s : State) (a : Addr) : (s.setIa a).pc = s.pc := rfl
@[simp] theorem State.setIa_index (s : State) (a : Addr) : (s.setIa a).index = s.index := rfl
@[simp] theorem State.setIa_stack (s : State) (a : Addr) : (s.setIa a).stack = s.stack := rfl
@[simp] theorem State.setIa_delay (s : State) (a : Addr) : (s.setIa a).delay = s.delay := rfl
@[simp] theorem State.setIa_sound (s : State) (a : Addr) : (s.setIa a).sound = s.sound := rfl
@[simp] theorem State.setIa_displayWaitLatch (s : State) (a : Addr) : (s.setIa a).displayWaitLatch = s.displayWaitLatch := rfl
@[simp] theorem State.setIa_keyReleaseLatch (s : State) (a : Addr) : (s.setIa a).keyReleaseLatch = s.keyReleaseLatch := rfl
@[simp] theorem State.setIa_dirty (s : State) (a : Addr) : (s.setIa a).dirty = s.dirty := rfl
@[simp] theorem State.setIa_cadence (s : State) (a : Addr) : (s.setIa a).cadence = s.cadence := rfl
@[simp] theorem State.setIa_halted (s : State) (a : Addr) : (s.setIa a).halted = s.halted := rfl
@[simp] theorem State.setIa_display (s : State) (a : Addr) : (s.setIa a).display = s.display := rfl
@[simp] theorem State.setIa_keys (s : State) (a : Addr) : (s.setIa a).keys = s.keys := rfl
@[simp] theorem State.setIa_mem (s : State) (a : Addr) : (s.setIa a).mem = s.mem := rfl
@[simp] theorem State.setIa_decodeCache (s : State) (a : Addr) : (s.setIa a).decodeCache = s.decodeCache := rfl
@[simp] theorem State.setIa_blockCache (s : State) (a : Addr) : (s.setIa a).blockCache = s.blockCache := rfl
@[simp] theorem State.setIa_config (s : State) (a : Addr) : (s.setIa a).config = s.config := rfl
@[simp] theorem State.setIa_ia (s : State) (a : Addr) : (s.setIa a).ia = a := rfl
@[simp] theorem State.setIa_rnd (s : State) (a : Addr) : (s.setIa a).rnd = s.rnd := rfl
@[simp] theorem State.setIa_evals (s : State) (a : Addr) : (s.setIa a).evals = s.evals := rfl
@[simp] theorem State.setIa_reg (s : State) (a : Addr) (q : Nibble) : (s.setIa a).reg q = s.reg q := rfl

@[simp] theorem State.setBlockCache_v (s : State) (c : List (Nat × List Instr)) : (s.setBlockCache c).v = s.v := rfl
@[simp] theorem State.setBlockCache_pc (s : State) (c : List (Nat × List Instr)) : (s.setBlockCache c).pc = s.pc := rfl
@[simp] theorem State.setBlockCache_index (s : State) (c : List (Nat × List Instr)) : (s.setBlockCache c).index = s.index := rfl
@[simp] theorem State.setBlockCache_stack (s : State) (c : List (Nat × List Instr)) : (s.setBlockCache c).stack = s.stack := rfl
@[simp] theorem State.setBlockCache_delay (s : State) (c : List (Nat × List Instr)) : (s.setBlockCache c).delay = s.delay := rfl
@[simp] theorem State.setBlockCache_sound (s : State) (c : List (Nat × List Instr)) : (s.setBlockCache c).sound = s.sound := rfl
@[simp] theorem State.setBlockCache_displayWaitLatch (s : State) (c : List (Nat × List Instr)) : (s.setBlockCache c).displayWaitLatch = s.displayWaitLatch := rfl
@[simp] theorem State.setBlockCache_keyReleaseLatch (s : State) (c : List (Nat × List Instr)) : (s.setBlockCache c).keyReleaseLatch = s.keyReleaseLatch := rfl
@[simp] theorem State.setBlockCache_dirty (s : State) (c : List (Nat × List Instr)) : (s.setBlockCache c).dirty = s.dirty := rfl
@[simp] theorem State.setBlockCache_cadence (s : State) (c : List (Nat × List Instr)) : (s.setBlockCache c).cadence = s.cadence := rfl
@[simp] theorem State.setBlockCache_halted (s : State) (c : List (Nat × List Instr)) : (s.setBlockCache c).halted = s.halted := rfl
@[simp] theorem State.setBlockCache_display (s : State) (c : List (Nat × List Instr)) : (s.setBlockCache c).display = s.display := rfl
@[simp] theorem State.setBlockCache_keys (s : State) (c : List (Nat × List Instr)) : (s.setBlockCache c).keys = s.keys := rfl
@[simp] theorem State.setBlockCache_mem (s : State) (c : List (Nat × List Instr)) : (s.setBlockCache c).mem = s.mem := rfl
@[simp] theorem State.setBlockCache_decodeCache (s : State) (c : List (Nat × List Instr)) : (s.setBlockCache c).decodeCache = s.decodeCache := rfl
@[simp] theorem State.setBlockCache_blockCache (s : State) (c : List (Nat × List Instr)) : (s.setBlockCache c).blockCache = c := rfl
@[simp] theorem State.setBlockCache_config (s : State) (c : List (Nat × List Instr)) : (s.setBlockCache c).config = s.config := rfl
@[simp] theorem State.setBlockCache_ia (s : State) (c : List (Nat × List Instr)) : (s.setBlockCache c).ia = s.ia := rfl
@[simp] theorem State.setBlockCache_rnd (s : State) (c : List (Nat × List Instr)) : (s.setBlockCache c).rnd = s.rnd := rfl
@[simp] theorem State.setBlockCache_evals (s : State) (c : List (Nat × List Instr)) : (s.setBlockCache c).evals = s.evals := rfl
@[simp] theorem State.setBlockCache_reg (s : State) (c : List (Nat × List Instr)) (q : Nibble) : (s.setBlockCache c).reg q = s.reg q := rfl

@[simp] theorem State.setHalted_v (s : State) (h : Halted) : (s.setHalted h).v = s.v := rfl
@[simp] theorem State.setHalted_pc (s : State) (h : Halted) : (s.setHalted h).pc = s.pc := rfl
@[simp] theorem State.setHalted_index (s : State) (h : Halted) : (s.setHalted h).index = s.index := rfl
@[simp] theorem State.setHalted_stack (s : State) (h : Halted) : (s.setHalted h).stack = s.stack := rfl
@[simp] theorem State.setHalted_delay (s : State) (h : Halted) : (s.setHalted h).delay = s.delay := rfl
@[simp] theorem State.setHalted_sound (s : State) (h : Halted) : (s.setHalted h).sound = s.sound := rfl
@[simp] theorem State.setHalted_displayWaitLatch (s : State) (h : Halted) : (s.setHalted h).displayWaitLatch = s.displayWaitLatch := rfl
@[simp] theorem State.setHalted_keyReleaseLatch (s : State) (h : Halted) : (s.setHalted h).keyReleaseLatch = s.keyReleaseLatch := rfl
@[simp] theorem State.setHalted_dirty (s : State) (h : Halted) : (s.setHalted h).dirty = s.dirty := rfl
@[simp] theorem State.setHalted_cadence (s : State) (h : Halted) : (s.setHalted h).cadence = s.cadence := rfl
@[simp] theorem State.setHalted_halted (s : State) (h : Halted) : (s.setHalted h).halted = h := rfl
@[simp] theorem State.setHalted_display (s : State) (h : Halted) : (s.setHalted h).display = s.display := rfl
@[simp] theorem State.setHalted_keys (s : State) (h : Halted) : (s.setHalted h).keys = s.keys := rfl
@[simp] theorem State.setHalted_mem (s : State) (h : Halted) : (s.setHalted h).mem = s.mem := rfl
@[simp] theorem State.setHalted_decodeCache (s : State) (h : Halted) : (s.setHalted h).decodeCache = s.decodeCache := rfl
@[simp] theorem State.setHalted_blockCache (s : State) (h : Halted) : (s.setHalted h).blockCache = s.blockCache := rfl
@[simp] theorem State.setHalted_config (s : State) (h : Halted) : (s.setHalted h).config = s.config := rfl
@[simp] theorem State.setHalted_ia (s : State) (h : Halted) : (s.setHalted h).ia = s.ia := rfl
@[simp] theorem State.setHalted_rnd (s : State) (h : Halted) : (s.setHalted h).rnd = s.rnd := rfl
@[simp] theorem State.setHalted_evals (s : State) (h : Halted) : (s.setHalted h).evals = s.evals := rfl
@[simp] theorem State.setHalted_reg (s : State) (h : Halted) (q : Nibble) : (s.setHalted h).reg q = s.reg q := rfl

@[simp] theorem State.push_v (s : State) (a : Addr) : (s.push a).v = s.v := rfl
@[simp] theorem State.push_pc (s : State) (a : Addr) : (s.push a).pc = s.pc := rfl
@[simp] theorem State.push_index (s : State) (a : Addr) : (s.push a).index = s.index := rfl
@[simp] theorem State.push_stack (s : State) (a : Addr) : (s.push a).stack = s.stack ++ [a] := rfl
@[simp] theorem State.push_delay (s : State) (a : Addr) : (s.push a).delay = s.delay := rfl
@[simp] theorem State.push_sound (s : State) (a : Addr) : (s.push a).sound = s.sound := rfl
@[simp] theorem State.push_displayWaitLatch (s : State) (a : Addr) : (s.push a).displayWaitLatch = s.displayWaitLatch := rfl
@[simp] theorem State.push_keyReleaseLatch (s : State) (a : Addr) : (s.push a).keyReleaseLatch = s.keyReleaseLatch := rfl
@[simp] theorem State.push_dirty (s : State) (a : Addr) : (s.push a).dirty = s.dirty := rfl
@[simp] theorem State.push_cadence (s : State) (a : Addr) : (s.push a).cadence = s.cadence := rfl
@[simp] theorem State.push_halted (s : State) (a : Addr) : (s.push a).halted = s.halted := rfl
@[simp] theorem State.push_display (s : State) (a : Addr) : (s.push a).display = s.display := rfl
@[simp] theorem State.push_keys (s : State) (a : Addr) : (s.push a).keys = s.keys := rfl
@[simp] theorem State.push_mem (s : State) (a : Addr) : (s.push a).mem = s.mem := rfl
@[simp] theorem State.push_decodeCache (s : State) (a : Addr) : (s.push a).decodeCache = s.decodeCache := rfl
@[simp] theorem State.push_blockCache (s : State) (a : Addr) : (s.push a).blockCache = s.blockCache := rfl
@[simp] theorem State.push_config (s : State) (a : Addr) : (s.push a).config = s.config := rfl
@[simp] theorem State.push_ia (s : State) (a : Addr) : (s.push a).ia = s.ia := rfl
@[simp] theorem State.push_rnd (s : State) (a : Addr) : (s.push a).rnd = s.rnd := rfl
@[simp] theorem State.push_evals (s : State) (a : Addr) : (s.push a).evals = s.evals := rfl
@[simp] theorem State.push_reg (s : State) (a : Addr) (q : Nibble) : (s.push a).reg q = s.reg q := rfl

@[simp] theorem State.dropTop_v (s : State) : (s.dropTop).v = s.v := rfl
@[simp] theorem State.dropTop_pc (s : State) : (s.dropTop).pc = s.pc := rfl
@[simp] theorem State.dropTop_index (s : State) : (s.dropTop).index = s.index := rfl
@[simp] theorem State.dropTop_stack (s : State) : (s.dropTop).stack = s.stack.dropLast := rfl
@[simp] theorem State.dropTop_delay (s : State) : (s.dropTop).delay = s.delay := rfl
@[simp] theorem State.dropTop_sound (s : State) : (s.dropTop).sound = s.sound := rfl
@[simp] theorem State.dropTop_displayWaitLatch (s : State) : (s.dropTop).displayWaitLatch = s.displayWaitLatch := rfl
@[simp] theorem State.dropTop_keyReleaseLatch (s : State) : (s.dropTop).keyReleaseLatch = s.keyReleaseLatch := rfl
@[simp] theorem State.dropTop_dirty (s : State) : (s.dropTop).dirty = s.dirty := rfl
@[simp] theorem State.dropTop_cadence (s : State) : (s.dropTop).cadence = s.cadence := rfl
@[simp] theorem State.dropTop_halted (s : State) : (s.dropTop).halted = s.halted := rfl
@[simp] theorem State.dropTop_display (s : State) : (s.dropTop).display = s.display := rfl
@[simp] theorem State.dropTop_keys (s : State) : (s.dropTop).keys = s.keys := rfl
@[simp] theorem State.dropTop_mem (s : State) : (s.dropTop).mem = s.mem := rfl
@[simp] theorem State.dropTop_decodeCache (s : State) : (s.dropTop).decodeCache = s.decodeCache := rfl
@[simp] theorem State.dropTop_blockCache (s : State) : (s.dropTop).blockCache = s.blockCache := rfl
@[simp] theorem State.dropTop_config (s : State) : (s.dropTop).config = s.config := rfl
@[simp] theorem State.dropTop_ia (s : State) : (s.dropTop).ia = s.ia := rfl
@[simp] theorem State.dropTop_rnd (s : State) : (s.dropTop).rnd = s.rnd := rfl
@[simp] theorem State.dropTop_evals (s : State) : (s.dropTop).evals = s.evals := rfl
@[simp] theorem State.dropTop_reg (s : State) (q : Nibble) : (s.dropTop).reg q = s.reg q := rfl

@[simp] theorem State.raise_v (s : State) (f : FaultCode) : (s.raise f).v = s.v := rfl
@[simp] theorem State.raise_pc (s : State) (f : FaultCode) : (s.raise f).pc = s.pc := rfl
@[simp] theorem State.raise_index (s : State) (f : FaultCode) : (s.raise f).index = s.index := rfl
@[simp] theorem State.raise_stack (s : State) (f : FaultCode) : (s.raise f).stack = s.stack := rfl
@[simp] theorem State.raise_delay (s : State) (f : FaultCode) : (s.raise f).delay = s.delay := rfl
@[simp] theorem State.raise_sound (s : State) (f : FaultCode) : (s.raise f).sound = s.sound := rfl
@[simp] theorem State.raise_displayWaitLatch (s : State) (f : FaultCode) : (s.raise f).displayWaitLatch = s.displayWaitLatch := rfl
@[simp] theorem State.raise_keyReleaseLatch (s : State) (f : FaultCode) : (s.raise f).keyReleaseLatch = s.keyReleaseLatch := rfl
@[simp] theorem State.raise_dirty (s : State) (f : FaultCode) : (s.raise f).dirty = s.dirty := rfl
@[simp] theorem State.raise_cadence (s : State) (f : FaultCode) : (s.raise f).cadence = s.cadence := rfl
@[simp] theorem State.raise_halted (s : State) (f : FaultCode) : (s.raise f).halted = .faulted f s.ia := rfl
@[simp] theorem State.raise_display (s : State) (f : FaultCode) : (s.raise f).display = s.display := rfl
@[simp] theorem State.raise_keys (s : State) (f : FaultCode) : (s.raise f).keys = s.keys := rfl
@[simp] theorem State.raise_mem (s : State) (f : FaultCode) : (s.raise f).mem = s.mem := rfl
@[simp] theorem State.raise_decodeCache (s : State) (f : FaultCode) : (s.raise f).decodeCache = s.decodeCache := rfl
@[simp] theorem State.raise_blockCache (s : State) (f : FaultCode) : (s.raise f).blockCache = s.blockCache := rfl
@[simp] theorem State.raise_config (s : State) (f : FaultCode) : (s.raise f).config = s.config := rfl
@[simp] theorem State.raise_ia (s : State) (f : FaultCode) : (s.raise f).ia = s.ia := rfl
@[simp] theorem State.raise_rnd (s : State) (f : FaultCode) : (s.raise f).rnd = s.rnd := rfl
@[simp] theorem State.raise_evals (s : State) (f : FaultCode) : (s.raise f).evals = s.evals := rfl
@[simp] theorem State.raise_reg (s : State) (f : FaultCode) (q : Nibble) : (s.raise f).reg q = s.reg q := rfl

@[simp] theorem State.rewindPc_v (s : State) : (s.rewindPc).v = s.v := rfl
@[simp] theorem State.rewindPc_pc (s : State) : (s.rewindPc).pc = s.pc - 2 := rfl
@[simp] theorem State.rewindPc_index (s : State) : (s.rewindPc).index = s.index := rfl
@[simp] theorem State.rewindPc_stack (s : State) : (s.rewindPc).stack = s.stack := rfl
@[simp] theorem State.rewindPc_delay (s : State) : (s.rewindPc).delay = s.delay := rfl
@[simp] theorem State.rewindPc_sound (s : State) : (s.rewindPc).sound = s.sound := rfl
@[simp] theorem State.rewindPc_displayWaitLatch (s : State) : (s.rewindPc).displayWaitLatch = s.displayWaitLatch := rfl
@[simp] theorem State.rewindPc_keyReleaseLatch (s : State) : (s.rewindPc).keyReleaseLatch = s.keyReleaseLatch := rfl
@[simp] theorem State.rewindPc_dirty (s : State) : (s.rewindPc).dirty = s.dirty := rfl
@[simp] theorem State.rewindPc_cadence (s : State) : (s.rewindPc).cadence = s.cadence := rfl
@[simp] theorem State.rewindPc_halted (s : State) : (s.rewindPc).halted = s.halted := rfl
@[simp] theorem State.rewindPc_display (s : State) : (s.rewindPc).display = s.display := rfl
@[simp] theorem State.rewindPc_keys (s : State) : (s.rewindPc).keys = s.keys := rfl
@[simp] theorem State.rewindPc_mem (s : State) : (s.rewindPc).mem = s.mem := rfl
@[simp] theorem State.rewindPc_decodeCache (s : State) : (s.rewindPc).decodeCache = s.decodeCache := rfl
@[simp] theorem State.rewindPc_blockCache (s : State) : (s.rewindPc).blockCache = s.blockCache := rfl
@[simp] theorem State.rewindPc_config (s : State) : (s.rewindPc).config = s.config := rfl
@[simp] theorem State.rewindPc_ia (s : State) : (s.rewindPc).ia = s.ia := rfl
@[simp] theorem State.rewindPc_rnd (s : State) : (s.rewindPc).rnd = s.rnd := rfl
@[simp] theorem State.rewindPc_evals (s : State) : (s.rewindPc).evals = s.evals := rfl
@[simp] theorem State.rewindPc_reg (s : State) (q : Nibble) : (s.rewindPc).reg q = s.reg q := rfl

@[simp] theorem State.beginEval_v (s : State) (a : Addr) : (s.beginEval a).v = s.v := rfl
@[simp] theorem State.beginEval_pc (s : State) (a : Addr) : (s.beginEval a).pc = s.pc := rfl
@[simp] theorem State.beginEval_index (s : State) (a : Addr) : (s.beginEval a).index = s.index := rfl
@[simp] theorem State.beginEval_stack (s : State) (a : Addr) : (s.beginEval a).stack = s.stack := rfl
@[simp] theorem State.beginEval_delay (s : State) (a : Addr) : (s.beginEval a).delay = s.delay := rfl
@[simp] theorem State.beginEval_sound (s : State) (a : Addr) : (s.beginEval a).sound = s.sound := rfl
@[simp] theorem State.beginEval_displayWaitLatch (s : State) (a : Addr) : (s.beginEval a).displayWaitLatch = s.displayWaitLatch := rfl
@[simp] theorem State.beginEval_keyReleaseLatch (s : State) (a : Addr) : (s.beginEval a).keyReleaseLatch = s.keyReleaseLatch := rfl
@[simp] theorem State.beginEval_dirty (s : State) (a : Addr) : (s.beginEval a).dirty = s.dirty := rfl
@[simp] theorem State.beginEval_cadence (s : State) (a : Addr) : (s.beginEval a).cadence = s.cadence := rfl
@[simp] theorem State.beginEval_halted (s : State) (a : Addr) : (s.beginEval a).halted = s.halted := rfl
@[simp] theorem State.beginEval_display (s : State) (a : Addr) : (s.beginEval a).display = s.display := rfl
@[simp] theorem State.beginEval_keys (s : State) (a : Addr) : (s.beginEval a).keys = s.keys := rfl
@[simp] theorem State.beginEval_mem (s : State) (a : Addr) : (s.beginEval a).mem = s.mem := rfl
@[simp] theorem State.beginEval_decodeCache (s : State) (a : Addr) : (s.beginEval a).decodeCache = s.decodeCache := rfl
@[simp] theorem State.beginEval_blockCache (s : State) (a : Addr) : (s.beginEval a).blockCache = s.blockCache := rfl
@[simp] theorem State.beginEval_config (s : State) (a : Addr) : (s.beginEval a).config = s.config := rfl
@[simp] theorem State.beginEval_ia (s : State) (a : Addr) : (s.beginEval a).ia = a := rfl
@[simp] theorem State.beginEval_rnd (s : State) (a : Addr) : (s.beginEval a).rnd = Config.rndByte s.evals := rfl
@[simp] theorem State.beginEval_evals (s : State) (a : Addr) : (s.beginEval a).evals = s.evals + 1 := rfl
@[simp] theorem State.beginEval_reg (s : State) (a : Addr) (q : Nibble) : (s.beginEval a).reg q = s.reg q := rfl

@[simp] theorem State.frameBoundary_v (s : State) : (s.frameBoundary).v = s.v := rfl
@[simp] theorem State.frameBoundary_pc (s : State) : (s.frameBoundary).pc = s.pc := rfl
@[simp] theorem State.frameBoundary_index (s : State) : (s.frameBoundary).index = s.index := rfl
@[simp] theorem State.frameBoundary_stack (s : State) : (s.frameBoundary).stack = s.stack := rfl
@[simp] theorem State.frameBoundary_delay (s : State) : (s.frameBoundary).delay = countDown s.delay := rfl
@[simp] theorem State.frameBoundary_sound (s : State) : (s.frameBoundary).sound = countDown s.sound := rfl
@[simp] theorem State.frameBoundary_displayWaitLatch (s : State) : (s.frameBoundary).displayWaitLatch = false := rfl
@[simp] theorem State.frameBoundary_keyReleaseLatch (s : State) : (s.frameBoundary).keyReleaseLatch = s.keyReleaseLatch := rfl
@[simp] theorem State.frameBoundary_dirty (s : State) : (s.frameBoundary).dirty = s.dirty := rfl
@[simp] theorem State.frameBoundary_cadence (s : State) : (s.frameBoundary).cadence = s.cadence := rfl
@[simp] theorem State.frameBoundary_halted (s : State) : (s.frameBoundary).halted = s.halted := rfl
@[simp] theorem State.frameBoundary_display (s : State) : (s.frameBoundary).display = s.display := rfl
@[simp] theorem State.frameBoundary_keys (s : State) : (s.frameBoundary).keys = s.keys := rfl
@[simp] theorem State.frameBoundary_mem (s : State) : (s.frameBoundary).mem = s.mem := rfl
@[simp] theorem State.frameBoundary_decodeCache (s : State) : (s.frameBoundary).decodeCache = s.decodeCache := rfl
@[simp] theorem State.frameBoundary_blockCache (s : State) : (s.frameBoundary).blockCache = s.blockCache := rfl
@[simp] theorem State.frameBoundary_config (s : State) : (s.frameBoundary).config = s.config := rfl
@[simp] theorem State.frameBoundary_ia (s : State) : (s.frameBoundary).ia = s.ia := rfl
@[simp] theorem State.frameBoundary_rnd (s : State) : (s.frameBoundary).rnd = s.rnd := rfl
@[simp] theorem State.frameBoundary_evals (s : State) : (s.frameBoundary).evals = s.evals := rfl
@[simp] theorem State.frameBoundary_reg (s : State) (q : Nibble) : (s.frameBoundary).reg q = s.reg q := rfl

/-- A register read after a register write. -/
theorem State.setReg_reg (s : State) (r : Nibble) (b : Byte) (q : Nibble) :
    (s.setReg r b).reg q = if q = r then b else s.reg q := by
  unfold State.reg
  simp only [State.setReg_v, Vector.getElem_set, BitVec.toNat_inj, eq_comm]

@[simp] theorem State.setReg_reg_same (s : State) (r : Nibble) (b : Byte) : (s.setReg r b).reg r = b := by
  simp [State.setReg_reg]

theorem State.setReg_reg_other (s : State) {r q : Nibble} (b : Byte) (h : q ≠ r) : (s.setReg r b).reg q = s.reg q := by
  simp [State.setReg_reg, h]

/-- A register read after a write of `VF`. -/
theorem State.setVf_reg (s : State) (b : Byte) (q : Nibble) : (s.setVf b).reg q = if q = 0xF then b else s.reg q :=
  State.setReg_reg s 0xF b q

/-- A register read after R133's result-then-flag write: for `x = 15` the flag stands. -/
theorem State.setResultFlag_reg (s : State) (x : Nibble) (b : Byte) (f : Bool) (q : Nibble) :
    (s.setResultFlag x b f).reg q = if q = 0xF then flagByte f else if q = x then b else s.reg q := by
  simp only [State.setResultFlag, State.setVf_reg, State.setReg_reg]

/-- A register read after a logic instruction's write (R134-R136). -/
theorem State.setLogicResult_reg (s : State) (x : Nibble) (b : Byte) (q : Nibble) :
    (s.setLogicResult x b).reg q =
      if s.config.quirks.vfReset = true ∧ q = 0xF then 0 else if q = x then b else s.reg q := by
  unfold State.setLogicResult
  by_cases h : s.config.quirks.vfReset = true <;>
    simp [h, State.setResultFlag_reg, State.setReg_reg, flagByte]

/-- A result-then-flag write changes the registers alone. -/
theorem State.setResultFlag_frame (s : State) (x : Nibble) (b : Byte) (f : Bool) :
    s.setResultFlag x b f = { s with v := (s.setResultFlag x b f).v } := rfl

/-- A logic instruction's write changes the registers alone. -/
theorem State.setLogicResult_frame (s : State) (x : Nibble) (b : Byte) :
    s.setLogicResult x b = { s with v := (s.setLogicResult x b).v } := by
  unfold State.setLogicResult
  split <;> rfl

/-- A skip changes `pc` alone. -/
theorem State.skipIf_eq (s : State) (c : Bool) : s.skipIf c = { s with pc := if c then s.pc + 2 else s.pc } := by
  cases c <;> rfl

/-- What one cadence step does (R320, R321): the counter wraps to 0 at `TIMER_RATIO` with a frame boundary, else it
advances by one and nothing else changes. -/
theorem State.cadenceStep_cases (s : State) :
    (s.cadence + 1 = s.config.timerRatio ∧
      s.cadenceStep = { s with cadence := 0, delay := countDown s.delay, sound := countDown s.sound, displayWaitLatch := false }) ∨
    (s.cadence + 1 ≠ s.config.timerRatio ∧ s.cadenceStep = { s with cadence := s.cadence + 1 }) := by
  unfold State.cadenceStep
  split
  · exact .inl ⟨‹_›, rfl⟩
  · exact .inr ⟨‹_›, rfl⟩

/-- What a draw that proceeds leaves unchanged (R244): all but the registers, the display, the latch and `dirty`. -/
theorem State.draw_frame (s : State) (x y n : Nibble) :
    s.draw x y n =
      { s with
        v := s.v.set 15 (flagByte (s.blit x y n).collision)
        display := (s.blit x y n).display
        displayWaitLatch := s.displayWaitLatch || s.config.quirks.displayWait
        dirty := true } := rfl

@[simp] theorem State.running_iff (s : State) : s.running = true ↔ s.halted = .running := by
  simp [State.running]

end Sys2Proof.Machine
end

