-- ==== Sys2Proof/Laws/Ops.lean ====
section
/-! SUPPORT. What each shared operation over registers, keys, operand forms and memory blocks does, once. -/

namespace Sys2Proof.Machine

/-- A register read is the file's element of that number (00_scope.md R9). -/
theorem State.reg_eq (s : State) (r : Nibble) : s.reg r = s.v[r.toNat]'r.isLt := rfl

/-- Two register files that read alike are equal. -/
theorem State.v_ext {s t : State} (h : ∀ r, t.reg r = s.reg r) : t.v = s.v := by
  apply Vector.ext
  intro i hi
  have := h (BitVec.ofNat 4 i)
  simpa [State.reg, Nat.mod_eq_of_lt hi] using this

/-- Writing a register with the value it holds changes nothing. -/
theorem State.setReg_self (s : State) (r : Nibble) : s.setReg r (s.reg r) = s := by
  have h : (s.setReg r (s.reg r)).v = s.v := by
    apply State.v_ext
    intro q
    rw [State.setReg_reg]
    split
    · subst_vars
      rfl
    · rfl
  show { s with v := (s.setReg r (s.reg r)).v } = s
  rw [h]

/-- A flag's byte is 0 or 1. -/
theorem flagByte_cases (b : Bool) : (b = true ∧ flagByte b = 1) ∨ (b = false ∧ flagByte b = 0) := by
  cases b
  · exact .inr ⟨rfl, rfl⟩
  · exact .inl ⟨rfl, rfl⟩

/-- An effective address is outside memory exactly at or above 4096 (R52). -/
theorem outOfRange_iff (a : Nat) : outOfRange a = true ↔ 4096 ≤ a := by
  rw [outOfRange, memSize, decide_eq_true_eq]

/-- A zero-extended byte keeps its number (30 R72). -/
theorem toAddr_toNat (b : Byte) : (toAddr b).toNat = b.toNat := by
  have := b.isLt
  simp only [toAddr, BitVec.toNat_setWidth]
  omega

/-- The registers of a block are `V0`..`Vx` (R178). -/
theorem mem_regsUpTo (x r : Nibble) : r ∈ regsUpTo x ↔ r.toNat ≤ x.toNat := by
  simp only [regsUpTo, List.mem_map, List.mem_range]
  constructor
  · rintro ⟨a, ha, rfl⟩
    have := x.isLt
    rw [BitVec.toNat_ofNat]
    omega
  · intro h
    exact ⟨r.toNat, by omega, by simp⟩

/-- A block store writes `x + 1` bytes (R178). -/
theorem State.blockBytes_length (s : State) (x : Nibble) : (s.blockBytes x).length = x.toNat + 1 := by
  simp [State.blockBytes, regsUpTo]

/-- The `k`-th byte of a block store is `V[k]` (R178). -/
theorem State.blockBytes_getElem (s : State) (x : Nibble) (k : Nat) (hk : k < (s.blockBytes x).length) :
    (s.blockBytes x)[k] = s.reg (BitVec.ofNat 4 k) := by
  simp [State.blockBytes, regsUpTo]

/-- Setting some registers of a file, one after another, from a function of their numbers. -/
theorem foldl_set_getElem (f : Nibble → Byte) (rs : List Nibble) (v : Vector Byte 16) (q : Nibble) :
    (rs.foldl (fun v r => v.set r.toNat (f r) r.isLt) v)[q.toNat]'q.isLt =
      if q ∈ rs then f q else v[q.toNat]'q.isLt := by
  induction rs generalizing v with
  | nil => simp
  | cons r rs ih =>
    rw [List.foldl_cons, ih]
    by_cases h : q ∈ rs
    · simp [h]
    · by_cases hr : q = r
      · subst hr
        simp [h]
      · have : r.toNat ≠ q.toNat := fun e => hr (BitVec.eq_of_toNat_eq e.symm)
        simp [h, hr, this]

/-- A register after a block load (R179): `V0`..`Vx` from memory, the others as before. -/
theorem State.setRegs_loadBlock_reg (s : State) (x r : Nibble) :
    (s.setRegs (s.loadBlock x)).reg r =
      if r.toNat ≤ x.toNat then s.mem.read (s.index.toNat + r.toNat) else s.reg r := by
  have h := foldl_set_getElem (fun r => s.mem.read (s.effAddr r.toNat)) (regsUpTo x) s.v r
  simp only [mem_regsUpTo] at h
  exact h

/-- `I` after a block transfer, as a number (R178, R179). -/
theorem State.indexAfterBlock_toNat (s : State) (x : Nibble) :
    (s.indexAfterBlock x).toNat =
      if s.config.quirks.memoryIncrement = true then (s.index.toNat + x.toNat + 1) % 4096 else s.index.toNat := by
  unfold State.indexAfterBlock
  have := x.isLt
  split
  · rw [BitVec.toNat_add, BitVec.toNat_add, BitVec.toNat_setWidth]
    simp
  · rfl

/-- The glyph address as a number (R175). -/
theorem State.glyphAddr_toNat (s : State) (b : Byte) :
    (s.glyphAddr b).toNat = (s.config.fontBase.toNat + 5 * (b.toNat % 16)) % 4096 := by
  have h : (b &&& 0x0F).toNat = b.toNat % 16 := by
    rw [BitVec.toNat_and]
    exact Nat.and_two_pow_sub_one_eq_mod b.toNat 4
  unfold State.glyphAddr
  rw [BitVec.toNat_add, BitVec.toNat_mul, toAddr_toNat, h]
  simp

/-- The bitmap of the keys after one key's write (R190): that key's bit, the others as before. -/
theorem keyBit_setKeyBit (keys : Vector Byte 2) (k : Nibble) (down : Bool) {j : Nat} (hj : j < 16) :
    keyBit (setKeyBit keys k.toNat down) j = if j = k.toNat then down else keyBit keys j := by
  have hk := k.isLt
  generalize k.toNat = k at hk
  unfold keyBit setKeyBit
  by_cases h8 : k / 8 = j / 8
  · have hi : j / 8 < 2 := by omega
    rw [h8]
    simp only [Vector.getElem?_setIfInBounds_self_of_lt hi, Option.getD_some]
    by_cases h : j = k
    · subst h
      have : 7 - j % 8 < 8 := by omega
      cases down <;> simp [this]
    · have h1 : 7 - j % 8 < 8 := by omega
      have h2 : ¬ (7 - j % 8 < 7 - k % 8) → ¬ 7 - j % 8 - (7 - k % 8) = 0 := by omega
      cases down
      · simp [h, h1]
        tauto
      · simp only [h, if_true, if_false, BitVec.getLsbD_or, BitVec.getLsbD_shiftLeft, BitVec.getLsbD_one]
        simp
        omega
  · have h : j ≠ k := by rintro rfl; exact h8 rfl
    simp only [Vector.getElem?_setIfInBounds_ne h8, if_neg h]

/-- What `FX0A` finds (R194): no key down, or the lowest key that is down. -/
theorem State.lowestKey_cases (s : State) :
    (s.lowestKey = none ∧ ∀ k, k < 16 → s.keyDown k = false) ∨
      ∃ k, s.lowestKey = some k ∧ k < 16 ∧ s.keyDown k = true ∧ ∀ j, j < k → s.keyDown j = false := by
  unfold State.lowestKey
  cases h : (List.range keyCount).find? s.keyDown with
  | none =>
    refine .inl ⟨rfl, fun k hk => ?_⟩
    have := List.find?_eq_none.mp h k (by simpa [keyCount] using hk)
    simpa using this
  | some k =>
    have hk := List.find?_range_eq_some.mp h
    refine .inr ⟨k, rfl, ?_, hk.1, fun j hj => ?_⟩
    · simpa [keyCount] using hk.2.1
    · simpa using hk.2.2 j hj

/-- The drawn rows of a sprite, as the claims name them (R246). -/
theorem State.drawnRows_eq (s : State) (y n : Nibble) : s.drawnRows y n = Safety.shownRows s y n := rfl

/-- A draw's gate, as the claims name it (R245, R250). -/
theorem drawProceeds_iff (s : State) (y n : Nibble) :
    Safety.DrawProceeds s y n ↔ s.drawWaits = false ∧ s.drawOutOfRange y n = false := by
  rw [Safety.DrawProceeds, ← State.drawnRows_eq, State.drawWaits, State.drawOutOfRange, outOfRange, State.effAddr,
    memSize, ← Bool.not_eq_true, ← Bool.not_eq_true]
  simp only [Bool.and_eq_true, decide_eq_true_eq]
  constructor
  · rintro ⟨h1, h2⟩
    exact ⟨h1, fun h => h2 ⟨h.1, by omega⟩⟩
  · rintro ⟨h1, h2⟩
    exact ⟨h1, fun h => h2 ⟨h.1, by omega⟩⟩

end Sys2Proof.Machine
end

