-- ==== Sys2Proof/Laws/PerInstr.lean ====
section
/-! SUPPORT. One law per instruction about its word: it carries its own row's mask and match of the opcode map
(30_encoding.md R74), and it is an unassigned opcode (R76) for the fallback alone. -/

namespace Sys2Proof.Laws

/-- The mask and match columns of R74, the fallback's 0x0000 and 0x0000. -/
def rowMaskMatch : Instr → Opcode × Opcode
  | .cls => (0xFFFF, 0x00E0)
  | .ret => (0xFFFF, 0x00EE)
  | .jp _ => (0xF000, 0x1000)
  | .call _ => (0xF000, 0x2000)
  | .seImm _ _ => (0xF000, 0x3000)
  | .sneImm _ _ => (0xF000, 0x4000)
  | .seReg _ _ => (0xF00F, 0x5000)
  | .ldImm _ _ => (0xF000, 0x6000)
  | .addImm _ _ => (0xF000, 0x7000)
  | .ldReg _ _ => (0xF00F, 0x8000)
  | .orReg _ _ => (0xF00F, 0x8001)
  | .andReg _ _ => (0xF00F, 0x8002)
  | .xorReg _ _ => (0xF00F, 0x8003)
  | .addReg _ _ => (0xF00F, 0x8004)
  | .sub _ _ => (0xF00F, 0x8005)
  | .shr _ _ => (0xF00F, 0x8006)
  | .subn _ _ => (0xF00F, 0x8007)
  | .shl _ _ => (0xF00F, 0x800E)
  | .sneReg _ _ => (0xF00F, 0x9000)
  | .ldI _ => (0xF000, 0xA000)
  | .jpV0 _ => (0xF000, 0xB000)
  | .rnd _ _ => (0xF000, 0xC000)
  | .drw _ _ _ => (0xF000, 0xD000)
  | .skp _ => (0xF0FF, 0xE09E)
  | .sknp _ => (0xF0FF, 0xE0A1)
  | .ldVDt _ => (0xF0FF, 0xF007)
  | .ldVK _ => (0xF0FF, 0xF00A)
  | .ldDtV _ => (0xF0FF, 0xF015)
  | .ldStV _ => (0xF0FF, 0xF018)
  | .addI _ => (0xF0FF, 0xF01E)
  | .ldF _ => (0xF0FF, 0xF029)
  | .ldB _ => (0xF0FF, 0xF033)
  | .storeRegs _ => (0xF0FF, 0xF055)
  | .loadRegs _ => (0xF0FF, 0xF065)
  | .unimpl _ => (0x0000, 0x0000)

/-- Whether an instruction is the fallback. -/
def isFallback : Instr → Bool
  | .cls => false
  | .ret => false
  | .jp _ => false
  | .call _ => false
  | .seImm _ _ => false
  | .sneImm _ _ => false
  | .seReg _ _ => false
  | .ldImm _ _ => false
  | .addImm _ _ => false
  | .ldReg _ _ => false
  | .orReg _ _ => false
  | .andReg _ _ => false
  | .xorReg _ _ => false
  | .addReg _ _ => false
  | .sub _ _ => false
  | .shr _ _ => false
  | .subn _ _ => false
  | .shl _ _ => false
  | .sneReg _ _ => false
  | .ldI _ => false
  | .jpV0 _ => false
  | .rnd _ _ => false
  | .drw _ _ _ => false
  | .skp _ => false
  | .sknp _ => false
  | .ldVDt _ => false
  | .ldVK _ => false
  | .ldDtV _ => false
  | .ldStV _ => false
  | .addI _ => false
  | .ldF _ => false
  | .ldB _ => false
  | .storeRegs _ => false
  | .loadRegs _ => false
  | .unimpl _ => true

/-- A well-formed instruction's word matches its own row, and is unassigned exactly for the fallback. -/
def OpcodeRow.Statement (i : Instr) : Prop :=
  i.WellFormed →
    encode i &&& (rowMaskMatch i).1 = (rowMaskMatch i).2 ∧ unassigned (encode i) = isFallback i

/-- `unassigned` in terms of the digits. -/
theorem unassigned_opXYN (d x y n : Nibble) :
    unassigned (opXYN d x y n) =
      match d.toNat with
      | 0x0 => opXYN d x y n != 0x00E0#16 && opXYN d x y n != 0x00EE#16
      | 0x5 => n != 0#4
      | 0x9 => n != 0#4
      | 0x8 => [0x8#4, 0x9#4, 0xA#4, 0xB#4, 0xC#4, 0xD#4, 0xF#4].contains n
      | 0xE => !([0x9E#8, 0xA1#8].contains (fieldsOf (opXYN d x y n)).nn)
      | 0xF => !([0x07#8, 0x0A#8, 0x15#8, 0x18#8, 0x1E#8, 0x29#8, 0x33#8, 0x55#8, 0x65#8].contains
          (fieldsOf (opXYN d x y n)).nn)
      | _ => false := by
  have h4 : (opXYN d x y n).extractLsb' 12 4 = d := op4_opXYN d x y n
  have h0 : (opXYN d x y n).extractLsb' 0 4 = n := fieldsOf_opXYN_n d x y n
  unfold unassigned
  simp only [h4, h0]
  rfl

/-- `unassigned` of a `dXNN` word reads the byte `nn`. -/
theorem unassigned_opXNN (d x : Nibble) (nn : Byte) :
    unassigned (opXNN d x nn) =
      match d.toNat with
      | 0x0 => opXNN d x nn != 0x00E0#16 && opXNN d x nn != 0x00EE#16
      | 0x5 => (fieldsOf (opXNN d x nn)).n != 0#4
      | 0x9 => (fieldsOf (opXNN d x nn)).n != 0#4
      | 0x8 => [0x8#4, 0x9#4, 0xA#4, 0xB#4, 0xC#4, 0xD#4, 0xF#4].contains (fieldsOf (opXNN d x nn)).n
      | 0xE => !([0x9E#8, 0xA1#8].contains nn)
      | 0xF => !([0x07#8, 0x0A#8, 0x15#8, 0x18#8, 0x1E#8, 0x29#8, 0x33#8, 0x55#8, 0x65#8].contains nn)
      | _ => false := by
  have h4 : (opXNN d x nn).extractLsb' 12 4 = d := op4_opXNN d x nn
  have h0 : (opXNN d x nn).extractLsb' 0 8 = nn := fieldsOf_opXNN_nn d x nn
  unfold unassigned
  simp only [h4, h0]
  rfl

namespace OpcodeRow

theorem cls : Statement (.cls) := by
  intro _
  decide

theorem ret : Statement (.ret) := by
  intro _
  decide

theorem jp (nnn : Addr) : Statement (.jp nnn) := by
  intro _
  refine ⟨?_, ?_⟩
  · simp only [encode, rowMaskMatch, and_F000, op4_opNNN]
    rfl
  · simp only [encode, opNNN_digits, unassigned_opXYN]
    rfl

theorem call (nnn : Addr) : Statement (.call nnn) := by
  intro _
  refine ⟨?_, ?_⟩
  · simp only [encode, rowMaskMatch, and_F000, op4_opNNN]
    rfl
  · simp only [encode, opNNN_digits, unassigned_opXYN]
    rfl

theorem seImm (x : Nibble) (nn : Byte) : Statement (.seImm x nn) := by
  intro _
  refine ⟨?_, ?_⟩
  · simp only [encode, rowMaskMatch, and_F000, op4_opXNN]
    rfl
  · simp only [encode, unassigned_opXNN]
    rfl

theorem sneImm (x : Nibble) (nn : Byte) : Statement (.sneImm x nn) := by
  intro _
  refine ⟨?_, ?_⟩
  · simp only [encode, rowMaskMatch, and_F000, op4_opXNN]
    rfl
  · simp only [encode, unassigned_opXNN]
    rfl

theorem seReg (x : Nibble) (y : Nibble) : Statement (.seReg x y) := by
  intro _
  refine ⟨?_, ?_⟩
  · simp only [encode, rowMaskMatch, and_F00F, op4_opXYN, fieldsOf_opXYN_n]
    rfl
  · simp only [encode, unassigned_opXYN]
    rfl

theorem ldImm (x : Nibble) (nn : Byte) : Statement (.ldImm x nn) := by
  intro _
  refine ⟨?_, ?_⟩
  · simp only [encode, rowMaskMatch, and_F000, op4_opXNN]
    rfl
  · simp only [encode, unassigned_opXNN]
    rfl

theorem addImm (x : Nibble) (nn : Byte) : Statement (.addImm x nn) := by
  intro _
  refine ⟨?_, ?_⟩
  · simp only [encode, rowMaskMatch, and_F000, op4_opXNN]
    rfl
  · simp only [encode, unassigned_opXNN]
    rfl

theorem ldReg (x : Nibble) (y : Nibble) : Statement (.ldReg x y) := by
  intro _
  refine ⟨?_, ?_⟩
  · simp only [encode, rowMaskMatch, and_F00F, op4_opXYN, fieldsOf_opXYN_n]
    rfl
  · simp only [encode, unassigned_opXYN]
    rfl

theorem orReg (x : Nibble) (y : Nibble) : Statement (.orReg x y) := by
  intro _
  refine ⟨?_, ?_⟩
  · simp only [encode, rowMaskMatch, and_F00F, op4_opXYN, fieldsOf_opXYN_n]
    rfl
  · simp only [encode, unassigned_opXYN]
    rfl

theorem andReg (x : Nibble) (y : Nibble) : Statement (.andReg x y) := by
  intro _
  refine ⟨?_, ?_⟩
  · simp only [encode, rowMaskMatch, and_F00F, op4_opXYN, fieldsOf_opXYN_n]
    rfl
  · simp only [encode, unassigned_opXYN]
    rfl

theorem xorReg (x : Nibble) (y : Nibble) : Statement (.xorReg x y) := by
  intro _
  refine ⟨?_, ?_⟩
  · simp only [encode, rowMaskMatch, and_F00F, op4_opXYN, fieldsOf_opXYN_n]
    rfl
  · simp only [encode, unassigned_opXYN]
    rfl

theorem addReg (x : Nibble) (y : Nibble) : Statement (.addReg x y) := by
  intro _
  refine ⟨?_, ?_⟩
  · simp only [encode, rowMaskMatch, and_F00F, op4_opXYN, fieldsOf_opXYN_n]
    rfl
  · simp only [encode, unassigned_opXYN]
    rfl

theorem sub (x : Nibble) (y : Nibble) : Statement (.sub x y) := by
  intro _
  refine ⟨?_, ?_⟩
  · simp only [encode, rowMaskMatch, and_F00F, op4_opXYN, fieldsOf_opXYN_n]
    rfl
  · simp only [encode, unassigned_opXYN]
    rfl

theorem shr (x : Nibble) (y : Nibble) : Statement (.shr x y) := by
  intro _
  refine ⟨?_, ?_⟩
  · simp only [encode, rowMaskMatch, and_F00F, op4_opXYN, fieldsOf_opXYN_n]
    rfl
  · simp only [encode, unassigned_opXYN]
    rfl

theorem subn (x : Nibble) (y : Nibble) : Statement (.subn x y) := by
  intro _
  refine ⟨?_, ?_⟩
  · simp only [encode, rowMaskMatch, and_F00F, op4_opXYN, fieldsOf_opXYN_n]
    rfl
  · simp only [encode, unassigned_opXYN]
    rfl

theorem shl (x : Nibble) (y : Nibble) : Statement (.shl x y) := by
  intro _
  refine ⟨?_, ?_⟩
  · simp only [encode, rowMaskMatch, and_F00F, op4_opXYN, fieldsOf_opXYN_n]
    rfl
  · simp only [encode, unassigned_opXYN]
    rfl

theorem sneReg (x : Nibble) (y : Nibble) : Statement (.sneReg x y) := by
  intro _
  refine ⟨?_, ?_⟩
  · simp only [encode, rowMaskMatch, and_F00F, op4_opXYN, fieldsOf_opXYN_n]
    rfl
  · simp only [encode, unassigned_opXYN]
    rfl

theorem ldI (nnn : Addr) : Statement (.ldI nnn) := by
  intro _
  refine ⟨?_, ?_⟩
  · simp only [encode, rowMaskMatch, and_F000, op4_opNNN]
    rfl
  · simp only [encode, opNNN_digits, unassigned_opXYN]
    rfl

theorem jpV0 (nnn : Addr) : Statement (.jpV0 nnn) := by
  intro _
  refine ⟨?_, ?_⟩
  · simp only [encode, rowMaskMatch, and_F000, op4_opNNN]
    rfl
  · simp only [encode, opNNN_digits, unassigned_opXYN]
    rfl

theorem rnd (x : Nibble) (nn : Byte) : Statement (.rnd x nn) := by
  intro _
  refine ⟨?_, ?_⟩
  · simp only [encode, rowMaskMatch, and_F000, op4_opXNN]
    rfl
  · simp only [encode, unassigned_opXNN]
    rfl

theorem drw (x : Nibble) (y : Nibble) (n : Nibble) : Statement (.drw x y n) := by
  intro _
  refine ⟨?_, ?_⟩
  · simp only [encode, rowMaskMatch, and_F000, op4_opXYN]
    rfl
  · simp only [encode, unassigned_opXYN]
    rfl

theorem skp (x : Nibble) : Statement (.skp x) := by
  intro _
  refine ⟨?_, ?_⟩
  · simp only [encode, rowMaskMatch, and_F0FF, opXNN_digits, op4_opXYN, fieldsOf_opXYN_y, fieldsOf_opXYN_n]
    rfl
  · simp only [encode, unassigned_opXNN]
    rfl

theorem sknp (x : Nibble) : Statement (.sknp x) := by
  intro _
  refine ⟨?_, ?_⟩
  · simp only [encode, rowMaskMatch, and_F0FF, opXNN_digits, op4_opXYN, fieldsOf_opXYN_y, fieldsOf_opXYN_n]
    rfl
  · simp only [encode, unassigned_opXNN]
    rfl

theorem ldVDt (x : Nibble) : Statement (.ldVDt x) := by
  intro _
  refine ⟨?_, ?_⟩
  · simp only [encode, rowMaskMatch, and_F0FF, opXNN_digits, op4_opXYN, fieldsOf_opXYN_y, fieldsOf_opXYN_n]
    rfl
  · simp only [encode, unassigned_opXNN]
    rfl

theorem ldVK (x : Nibble) : Statement (.ldVK x) := by
  intro _
  refine ⟨?_, ?_⟩
  · simp only [encode, rowMaskMatch, and_F0FF, opXNN_digits, op4_opXYN, fieldsOf_opXYN_y, fieldsOf_opXYN_n]
    rfl
  · simp only [encode, unassigned_opXNN]
    rfl

theorem ldDtV (x : Nibble) : Statement (.ldDtV x) := by
  intro _
  refine ⟨?_, ?_⟩
  · simp only [encode, rowMaskMatch, and_F0FF, opXNN_digits, op4_opXYN, fieldsOf_opXYN_y, fieldsOf_opXYN_n]
    rfl
  · simp only [encode, unassigned_opXNN]
    rfl

theorem ldStV (x : Nibble) : Statement (.ldStV x) := by
  intro _
  refine ⟨?_, ?_⟩
  · simp only [encode, rowMaskMatch, and_F0FF, opXNN_digits, op4_opXYN, fieldsOf_opXYN_y, fieldsOf_opXYN_n]
    rfl
  · simp only [encode, unassigned_opXNN]
    rfl

theorem addI (x : Nibble) : Statement (.addI x) := by
  intro _
  refine ⟨?_, ?_⟩
  · simp only [encode, rowMaskMatch, and_F0FF, opXNN_digits, op4_opXYN, fieldsOf_opXYN_y, fieldsOf_opXYN_n]
    rfl
  · simp only [encode, unassigned_opXNN]
    rfl

theorem ldF (x : Nibble) : Statement (.ldF x) := by
  intro _
  refine ⟨?_, ?_⟩
  · simp only [encode, rowMaskMatch, and_F0FF, opXNN_digits, op4_opXYN, fieldsOf_opXYN_y, fieldsOf_opXYN_n]
    rfl
  · simp only [encode, unassigned_opXNN]
    rfl

theorem ldB (x : Nibble) : Statement (.ldB x) := by
  intro _
  refine ⟨?_, ?_⟩
  · simp only [encode, rowMaskMatch, and_F0FF, opXNN_digits, op4_opXYN, fieldsOf_opXYN_y, fieldsOf_opXYN_n]
    rfl
  · simp only [encode, unassigned_opXNN]
    rfl

theorem storeRegs (x : Nibble) : Statement (.storeRegs x) := by
  intro _
  refine ⟨?_, ?_⟩
  · simp only [encode, rowMaskMatch, and_F0FF, opXNN_digits, op4_opXYN, fieldsOf_opXYN_y, fieldsOf_opXYN_n]
    rfl
  · simp only [encode, unassigned_opXNN]
    rfl

theorem loadRegs (x : Nibble) : Statement (.loadRegs x) := by
  intro _
  refine ⟨?_, ?_⟩
  · simp only [encode, rowMaskMatch, and_F0FF, opXNN_digits, op4_opXYN, fieldsOf_opXYN_y, fieldsOf_opXYN_n]
    rfl
  · simp only [encode, unassigned_opXNN]
    rfl

theorem unimpl (op : Opcode) : Statement (.unimpl op) := by
  intro h
  exact ⟨by simp [rowMaskMatch], h⟩

end OpcodeRow

end Sys2Proof.Laws
end

