-- ==== Sys2Proof/Laws/Tick.lean ====
section
/-! SUPPORT. What the operations of a tick do, once: slots, blocks and their cache, an evaluation and its end, and the
three outcomes of a fetch. -/

namespace Sys2Proof.Machine

open Sys2Proof.Safety

/-- An address is slot `k` exactly when it is `START_ADDR + 2k` (R215). -/
theorem slotIndex_eq_some_iff (c : Config) (a k : Nat) : slotIndex c a = some k ↔ a = c.startAddr.toNat + 2 * k := by
  unfold slotIndex
  split
  · rw [Option.some.injEq]
    omega
  · constructor
    · intro h
      exact absurd h (by simp)
    · omega

/-- No slot index, no slot. -/
theorem slotIndex_eq_none_iff (c : Config) (a : Nat) : slotIndex c a = none ↔ ∀ k, a ≠ c.startAddr.toNat + 2 * k := by
  constructor
  · intro h k hk
    rw [(slotIndex_eq_some_iff c a k).mpr hk] at h
    exact absurd h (by simp)
  · intro h
    cases hk : slotIndex c a with
    | none => rfl
    | some k => exact absurd ((slotIndex_eq_some_iff c a k).mp hk) (h k)

/-- A block is a prefix of the descriptors it is taken from (R220). -/
theorem takeBlock_prefix (l : List Instr) : ∃ rest, l = takeBlock l ++ rest := by
  induction l with
  | nil => exact ⟨[], rfl⟩
  | cons i is ih =>
    unfold takeBlock
    split
    · exact ⟨is, rfl⟩
    · obtain ⟨rest, h⟩ := ih
      exact ⟨rest, by rw [List.cons_append, ← h]⟩

/-- A block of a nonempty list is nonempty (R220). -/
theorem takeBlock_eq_nil_iff (l : List Instr) : takeBlock l = [] ↔ l = [] := by
  cases l with
  | nil => exact ⟨fun _ => rfl, fun _ => rfl⟩
  | cons i is =>
    unfold takeBlock
    split <;> simp

/-- A block read back from the cache it was stored in: the stored one for its address, the others as before (R221). -/
theorem cachedBlock_storeBlock {lo : Nat} {c : List (Nat × List Instr)} (h : blocksSorted lo c = true) (e : Nat)
    (b : List Instr) (a : Nat) : cachedBlock (storeBlock c e b) a = if a = e then some b else cachedBlock c a := by
  induction c generalizing lo with
  | nil => simp [storeBlock, cachedBlock]
  | cons p c ih =>
    obtain ⟨x, y⟩ := p
    simp only [blocksSorted, Bool.and_eq_true, decide_eq_true_eq] at h
    unfold storeBlock
    split
    · simp [cachedBlock]
    · split
      · subst_vars
        simp only [cachedBlock]
        split <;> rfl
      · simp only [cachedBlock, ih h.2]
        by_cases h1 : a = x
        · subst h1
          have hne : ¬ a = e := fun h => ‹¬ e = a› h.symm
          simp [hne]
        · simp [h1]

/-- Storing a block keeps the cache's order (R221). -/
theorem blocksSorted_storeBlock {lo : Nat} {c : List (Nat × List Instr)} (h : blocksSorted lo c = true) {e : Nat}
    (hl : lo ≤ e) (b : List Instr) : blocksSorted lo (storeBlock c e b) = true := by
  induction c generalizing lo with
  | nil => simp [storeBlock, blocksSorted, hl]
  | cons p c ih =>
    obtain ⟨x, y⟩ := p
    simp only [blocksSorted, Bool.and_eq_true, decide_eq_true_eq] at h
    unfold storeBlock
    split
    · simp only [blocksSorted, Bool.and_eq_true, decide_eq_true_eq]
      exact ⟨hl, by omega, h.2⟩
    · split
      · subst_vars
        simp only [blocksSorted, Bool.and_eq_true, decide_eq_true_eq]
        exact ⟨hl, h.2⟩
      · simp only [blocksSorted, Bool.and_eq_true, decide_eq_true_eq]
        exact ⟨h.1, ih h.2 (by omega)⟩

/-- What `BuildBlock` answers (R220): nothing, or the block taken from a slot's descriptors on. -/
theorem State.buildBlock_eq_some_iff (s : State) (e : Nat) (b : List Instr) :
    s.buildBlock e = some b ↔
      ∃ k, e = s.config.startAddr.toNat + 2 * k ∧ b = takeBlock (s.decodeCache.drop k) ∧ b ≠ [] := by
  unfold State.buildBlock
  constructor
  · intro h
    split at h
    · exact absurd h (by simp)
    · rename_i k hk
      split at h
      · exact absurd h (by simp)
      · rename_i hb
        cases h
        exact ⟨k, (slotIndex_eq_some_iff _ _ _).mp hk, rfl, hb⟩
  · rintro ⟨k, hk, rfl, hb⟩
    rw [(slotIndex_eq_some_iff _ _ _).mpr hk]
    cases h : takeBlock (s.decodeCache.drop k) with
    | nil => exact absurd h hb
    | cons i is => simp [h]

/-- What a block fetch answers (R223): the cached block, or the one built and then stored, or nothing. -/
theorem State.fetchBlock_cases (s : State) :
    (∃ b, cachedBlock s.blockCache s.pc.toNat = some b ∧ s.fetchBlock = some (b, s.blockCache)) ∨
    (∃ b, cachedBlock s.blockCache s.pc.toNat = none ∧ s.buildBlock s.pc.toNat = some b ∧
      s.fetchBlock = some (b, storeBlock s.blockCache s.pc.toNat b)) ∨
    (cachedBlock s.blockCache s.pc.toNat = none ∧ s.buildBlock s.pc.toNat = none ∧ s.fetchBlock = none) := by
  unfold State.fetchBlock
  cases h : cachedBlock s.blockCache s.pc.toNat with
  | some b => exact .inl ⟨b, rfl, rfl⟩
  | none =>
    cases hb : s.buildBlock s.pc.toNat with
    | some b => exact .inr (.inl ⟨b, rfl, rfl, rfl⟩)
    | none => exact .inr (.inr ⟨rfl, rfl, rfl⟩)

/-- A cadence step leaves all but the timers, the display-wait latch and the counter as they were. -/
theorem State.cadenceStep_frame (s : State) :
    s.cadenceStep =
      { s with
        cadence := s.cadenceStep.cadence, delay := s.cadenceStep.delay, sound := s.cadenceStep.sound
        displayWaitLatch := s.cadenceStep.displayWaitLatch } := by
  rcases State.cadenceStep_cases s with ⟨_, h⟩ | ⟨_, h⟩ <;> rw [h]

/-- A cadence step keeps the counter inside its frame (R320). -/
theorem State.cadenceStep_inFrame {s : State} (h : CadenceInFrame s) : CadenceInFrame s.cadenceStep := by
  unfold CadenceInFrame at *
  rcases State.cadenceStep_cases s with ⟨_, e⟩ | ⟨hne, e⟩ <;> rw [e]
  · exact Nat.lt_of_le_of_lt (Nat.zero_le _) h
  · show s.cadence + 1 < s.config.timerRatio
    omega

/-- What ends an evaluation (R214, R300): a cadence step while the core runs, nothing when it faulted. -/
theorem State.endEval_cases (s : State) :
    (s.halted = .running ∧ s.endEval = s.cadenceStep) ∨ (s.halted ≠ .running ∧ s.endEval = s) := by
  unfold State.endEval
  by_cases h : s.halted = .running
  · exact .inl ⟨h, if_pos ((State.running_iff s).mpr h)⟩
  · exact .inr ⟨h, if_neg (fun e => h ((State.running_iff s).mp e))⟩

/-- The end of an evaluation leaves `halted` as it was. -/
@[simp] theorem State.endEval_halted (s : State) : s.endEval.halted = s.halted := by
  rcases State.endEval_cases s with ⟨_, h⟩ | ⟨_, h⟩ <;> rw [h]
  rw [State.cadenceStep_frame]

/-- An evaluation whose rule answers a state answers that state's end of evaluation. -/
theorem evalInstr_of_exec {i : Instr} {ia : Addr} {s t : State} (h : exec i (s.beginEval ia) = .next t) :
    evalInstr i ia s = .next t.endEval := by
  simp only [evalInstr, h]

/-- An evaluation that answers a state went through its rule. -/
theorem evalInstr_next {i : Instr} {ia : Addr} {s t : State} (h : evalInstr i ia s = .next t) :
    ∃ u, exec i (s.beginEval ia) = .next u ∧ t = u.endEval := by
  unfold evalInstr at h
  split at h
  · rename_i u hu
    cases h
    exact ⟨u, hu, rfl⟩
  · cases h
  · cases h

/-- What a block's run answers (R223): the first instruction's evaluation, and the rest while the core runs. -/
theorem runBlock_cons_next {i : Instr} {is : List Instr} {ia : Addr} {s t : State} (h : runBlock (i :: is) ia s = .next t) :
    ∃ u, evalInstr i ia s = .next u ∧
      ((u.halted = .running ∧ runBlock is (ia + 2) u = .next t) ∨ (u.halted ≠ .running ∧ t = u)) := by
  rw [runBlock] at h
  split at h
  · rename_i u hu
    by_cases hr : u.halted = .running
    · rw [if_pos ((State.running_iff u).mpr hr)] at h
      exact ⟨u, hu, .inl ⟨hr, h⟩⟩
    · rw [if_neg (fun e => hr ((State.running_iff u).mp e))] at h
      cases h
      exact ⟨_, hu, .inr ⟨hr, rfl⟩⟩
  · cases h
  · cases h

/-- What a step that answers a state did: nothing on a faulted core, a failed fetch's record, one instruction (from
memory or from its slot), or a block (R211). -/
theorem step_cases {s t : State} (h : step s = .next t) :
    (s.halted ≠ .running ∧ t = s) ∨
    (s.halted = .running ∧ ∃ code, t = s.fetchFault code) ∨
    (s.halted = .running ∧ s.config.engine ≠ .basicBlock ∧ ∃ i, evalInstr i s.pc (s.setPc (s.pc + 2)) = .next t) ∨
    (s.halted = .running ∧ s.config.engine = .basicBlock ∧ ∃ b c, s.fetchBlock = some (b, c) ∧
      runBlock b s.pc ((s.setBlockCache c).setPc (blockEnd s.pc b.length)) = .next t) := by
  unfold step tick at h
  split at h
  · rename_i code ia hs
    cases h
    exact .inl ⟨by rw [hs]; simp, rfl⟩
  · rename_i hs
    refine .inr ?_
    split at h
    · rename_i he
      unfold tickDirect at h
      split at h
      · cases h
        exact .inl ⟨hs, _, rfl⟩
      · exact .inr (.inl ⟨hs, by rw [he]; simp, _, h⟩)
    · rename_i he
      unfold tickCached at h
      split at h
      · cases h
        exact .inl ⟨hs, _, rfl⟩
      · exact .inr (.inl ⟨hs, by rw [he]; simp, _, h⟩)
    · rename_i he
      unfold tickBlock at h
      split at h
      · cases h
        exact .inl ⟨hs, _, rfl⟩
      · exact .inr (.inr ⟨hs, he, _, _, ‹_›, h⟩)

/-- A host run of one more step, of any machine. -/
theorem core_run_succ (M : Host.Core) (s : M.State) (n : Nat) :
    M.run (n + 1) s =
      match M.step s with
      | .next t => M.run n t
      | .fault r => .fault r
      | .refused r => .refused r := rfl

/-- A run of one more step of this machine, whose first step answers a state. -/
theorem run_succ_of_step {s t : State} (h : step s = .next t) (n : Nat) :
    Host.Core.run Sys2Proof.core (n + 1) s = Host.Core.run Sys2Proof.core n t := by
  have e := core_run_succ Sys2Proof.core s n
  rw [show Sys2Proof.core.step s = Host.Outcome.next t from h] at e
  exact e

end Sys2Proof.Machine
end

