-- ==== Sys2Proof/Tests/Slice0.lean ====
section
/-! SUPPORT. Tests: the ill-formed term the check refuses, the decoder on written-out words, single steps with the
results of spec/95_test_vectors.md (its vector's name in each comment), and a witness for the hypotheses of every
statement that has some. -/

namespace Sys2Proof.Tests

open Sys2Proof.Machine Sys2Proof.Safety

set_option maxRecDepth 8000

/-! ## Well-formedness -/

/-- R76: the word of `00E0` is assigned, so it is no fallback. -/
theorem test_unimpl_of_assigned_word_is_ill_formed : (Instr.unimpl 0x00E0).wellFormed = false := by decide

/-- R76: `0x0000` is unassigned; and the other constructors have no ill-formed term. -/
theorem test_unimpl_of_unassigned_word_is_well_formed :
    (Instr.unimpl 0x0000).wellFormed = true ∧ (Instr.drw 0xF 0xF 0xF).wellFormed = true := by decide

/-! ## Decoding: words written from the patterns of 30_encoding.md R74 and the vectors of 95 section 2.1 -/

theorem test_decode_clear_and_flow :
    decode 0x00E0 = .cls ∧ decode 0x00EE = .ret ∧ decode 0x1ABC = .jp 0xABC ∧ decode 0x2000 = .call 0x000 ∧
    decode 0xB3C4 = .jpV0 0x3C4 := by decide

theorem test_decode_skips :
    decode 0x3A7F = .seImm 0xA 0x7F ∧ decode 0x4A7F = .sneImm 0xA 0x7F ∧ decode 0x5120 = .seReg 1 2 ∧
    decode 0x9120 = .sneReg 1 2 ∧ decode 0xE19E = .skp 1 ∧ decode 0xE1A1 = .sknp 1 := by decide

theorem test_decode_alu :
    decode 0x6FFF = .ldImm 0xF 0xFF ∧ decode 0x7F01 = .addImm 0xF 0x01 ∧ decode 0x8120 = .ldReg 1 2 ∧
    decode 0x8121 = .orReg 1 2 ∧ decode 0x8122 = .andReg 1 2 ∧ decode 0x8123 = .xorReg 1 2 ∧
    decode 0x8124 = .addReg 1 2 ∧ decode 0x8125 = .sub 1 2 ∧ decode 0x8126 = .shr 1 2 ∧
    decode 0x8127 = .subn 1 2 ∧ decode 0x812E = .shl 1 2 ∧ decode 0xC30F = .rnd 3 0x0F := by decide

theorem test_decode_index_timers_keys_display :
    decode 0xA300 = .ldI 0x300 ∧ decode 0xF307 = .ldVDt 3 ∧ decode 0xF10A = .ldVK 1 ∧ decode 0xF515 = .ldDtV 5 ∧
    decode 0xF518 = .ldStV 5 ∧ decode 0xF21E = .addI 2 ∧ decode 0xF029 = .ldF 0 ∧ decode 0xF133 = .ldB 1 ∧
    decode 0xF255 = .storeRegs 2 ∧ decode 0xF265 = .loadRegs 2 ∧ decode 0xD12F = .drw 1 2 0xF := by decide

/-- 95 section 2.1, the `UNIMPL` rows. -/
theorem test_decode_fallback :
    decode 0x0000 = .unimpl 0x0000 ∧ decode 0x00E1 = .unimpl 0x00E1 ∧ decode 0x0123 = .unimpl 0x0123 ∧
    decode 0x5121 = .unimpl 0x5121 ∧ decode 0x8128 = .unimpl 0x8128 ∧ decode 0x812F = .unimpl 0x812F ∧
    decode 0x912E = .unimpl 0x912E ∧ decode 0xE19F = .unimpl 0xE19F ∧ decode 0xF130 = .unimpl 0xF130 ∧
    decode 0xF175 = .unimpl 0xF175 ∧ decode 0xFF00 = .unimpl 0xFF00 ∧ decode 0xFFFF = .unimpl 0xFFFF := by decide

/-- 20_memory.md R55: the byte at the lower address is the top one; a byte alone is no instruction. -/
theorem test_decode_bytes :
    decodeTableWord 16 0x1ABC = some (.jp 0xABC) ∧ encodeBytes (.jp 0xABC) = [0x1A, 0xBC] ∧
    (match decodeBytes [0x12] with | .ok _ => false | .error e => decide (e = .truncated)) = true := by decide

/-! ## Single steps -/

/-- Whether an outcome is a next state with a property. -/
def answers (o : Host.Outcome State Fault Refusal) (p : State → Bool) : Bool :=
  match o with
  | .next t => p t
  | .fault _ => false
  | .refused _ => false

theorem answers_next {o : Host.Outcome State Fault Refusal} {p : State → Bool} (h : answers o p = true) :
    ∃ t, o = .next t ∧ p t = true := by
  cases o with
  | next t => exact ⟨t, rfl, h⟩
  | fault r => exact absurd h (by simp [answers])
  | refused r => exact absurd h (by simp [answers])

/-- The state after reset with memory empty, the font too: a small state. -/
def small : State := { State.reset with mem := [] }

/-- The small state with some registers set. -/
def start (rs : List (Nibble × Byte)) : State := rs.foldl (fun s p => s.setReg p.1 p.2) small

/-- A state under other quirks, `QUIRK[5:0]` as the vectors give it. -/
def quirked (q : BitVec 6) (s : State) : State := { s with config := { s.config with quirks := quirksOfBits q } }

/-- A state under another `TIMER_RATIO`. -/
def ratio (n : Nat) (s : State) : State := { s with config := { s.config with timerRatio := n } }

/-- A state with bytes written to memory. -/
def bytes (a : Nat) (vs : List Byte) (s : State) : State := { s with mem := s.mem.writeBytes a vs }

/-- One step on the word at the state's `pc`, and a property of what it answers. -/
def runs (s : State) (w : Nat) (p : State → Bool) : Bool := answers (step (s.withFetchWord 16 w)) p

/-- CF1. -/
theorem test_cls : runs { small with display := Vector.replicate 256 0x5A } 0x00E0 (fun t =>
    dispByte t.display 0 == 0 && dispByte t.display 255 == 0 && t.dirty && t.pc == 0x202) = true := by decide

/-- CF2. -/
theorem test_ret : runs { small with stack := [0x206], pc := 0x214 } 0x00EE (fun t =>
    t.pc == 0x206 && t.stack == []) = true := by decide

/-- CF3, T4. -/
theorem test_ret_underflow : runs { ratio 3 small with cadence := 2 } 0x00EE (fun t =>
    t.halted == .faulted .stackUnderflow 0x200 && t.stack == [] && t.cadence == 2) = true := by decide

/-- CF5: the return address wraps at 12 bits. -/
theorem test_call_at_top : runs { small with pc := 0xFFE } 0x2300 (fun t =>
    t.stack == [0x000] && t.pc == 0x300) = true := by decide

/-- CF6. -/
theorem test_call_overflow :
    runs { small with
        config := { defaultConfig with stackLimit := some 2 }, stack := [0x202, 0x302], pc := 0x400 }
      0x2400 (fun t => t.halted == .faulted .stackOverflow 0x400 && t.stack == [0x202, 0x302]) = true := by decide

/-- CF8. -/
theorem test_jp_odd : runs small 0x1201 (fun t => t.pc == 0x201) = true := by decide

/-- CF10: the fetch and the skip both wrap. -/
theorem test_seImm_wraps : runs { small with pc := 0xFFE } 0x3000 (fun t => t.pc == 0x002) = true := by decide

/-- CF9. -/
theorem test_seImm_no_skip : runs (start [(3, 0x11)]) 0x3310 (fun t => t.pc == 0x202) = true := by decide

/-- CF11. -/
theorem test_sneImm : (runs (start [(3, 0x11)]) 0x4310 (fun t => t.pc == 0x204) &&
    runs (start [(3, 0x10)]) 0x4310 (fun t => t.pc == 0x202)) = true := by decide

/-- CF12. -/
theorem test_seReg : runs (start [(1, 0x7F), (2, 0x7F)]) 0x5120 (fun t => t.pc == 0x204) = true := by decide

/-- CF14, CF13. -/
theorem test_sneReg : (runs (start [(1, 0x01), (2, 0x02)]) 0x9120 (fun t => t.pc == 0x204) &&
    runs (start [(1, 0x01)]) 0x9110 (fun t => t.pc == 0x202)) = true := by decide

/-- CF17: the sum wraps at 12 bits. -/
theorem test_jpV0_wraps : runs (start [(0, 0xFF)]) 0xBFFF (fun t => t.pc == 0x0FE) = true := by decide

/-- CF16: under `jump_uses_vx`. -/
theorem test_jpV0_quirk : runs (quirked 0x2F (start [(0, 0x05), (3, 0x10)])) 0xB300 (fun t =>
    t.pc == 0x310) = true := by decide

/-- A1. -/
theorem test_ldImm : runs small 0x6A7B (fun t => t.reg 0xA == 0x7B && t.pc == 0x202) = true := by decide

/-- A2: no flag. -/
theorem test_addImm_wraps : runs (start [(0, 0xFF), (0xF, 0x55)]) 0x7001 (fun t =>
    t.reg 0 == 0x00 && t.vf == 0x55) = true := by decide

/-- A4. -/
theorem test_ldReg : runs (start [(1, 0x42)]) 0x8010 (fun t => t.reg 0 == 0x42 && t.reg 1 == 0x42) = true := by decide

/-- A5. -/
theorem test_orReg : (runs (start [(0, 0x0F), (1, 0xF0), (0xF, 0x01)]) 0x8011 (fun t => t.reg 0 == 0xFF && t.vf == 0) &&
    runs (quirked 0x0E (start [(0, 0x0F), (1, 0xF0), (0xF, 0x01)])) 0x8011 (fun t => t.reg 0 == 0xFF && t.vf == 1)) =
      true := by decide

/-- A6: `VF` as the destination. -/
theorem test_orReg_VF : (runs (start [(0xF, 0x0F), (1, 0xF0)]) 0x8F11 (fun t => t.vf == 0x00) &&
    runs (quirked 0x0E (start [(0xF, 0x0F), (1, 0xF0)])) 0x8F11 (fun t => t.vf == 0xFF)) = true := by decide

/-- A7. -/
theorem test_andReg : runs (start [(0, 0x3C), (1, 0x0F)]) 0x8012 (fun t =>
    t.reg 0 == 0x0C && t.vf == 0) = true := by decide

/-- A8. -/
theorem test_xorReg : runs (quirked 0x0E (start [(0, 0xFF), (1, 0x0F), (0xF, 0x05)])) 0x8013 (fun t =>
    t.reg 0 == 0xF0 && t.vf == 0x05) = true := by decide

/-- W1. -/
theorem test_addReg_carry : runs (start [(0, 0xFF), (1, 0x01)]) 0x8014 (fun t =>
    t.reg 0 == 0x00 && t.vf == 1) = true := by decide

/-- A13: the flag overwrites the sum in `VF`. -/
theorem test_addReg_VF : runs (start [(0xF, 0x01), (1, 0x01)]) 0x8F14 (fun t => t.vf == 0) = true := by decide

/-- W2. -/
theorem test_sub_borrow : runs (start [(0, 0x01), (1, 0x02)]) 0x8015 (fun t =>
    t.reg 0 == 0xFF && t.vf == 0) = true := by decide

/-- A15: equal operands give no borrow. -/
theorem test_sub_equal : runs (start [(0, 0x05), (1, 0x05)]) 0x8015 (fun t =>
    t.reg 0 == 0x00 && t.vf == 1) = true := by decide

/-- A17, A18. -/
theorem test_subn : (runs (start [(0, 0x01), (1, 0x05)]) 0x8017 (fun t => t.reg 0 == 0x04 && t.vf == 1) &&
    runs (start [(0, 0x02), (1, 0x01)]) 0x8017 (fun t => t.reg 0 == 0xFF && t.vf == 0)) = true := by decide

/-- A19: the default shifts `V[y]`. -/
theorem test_shr : runs (start [(0, 0x00), (1, 0x05)]) 0x8016 (fun t =>
    t.reg 0 == 0x02 && t.vf == 1 && t.reg 1 == 0x05) = true := by decide

/-- A21: under `shift_uses_vy` the shift is in place. -/
theorem test_shr_quirk : runs (quirked 0x1F (start [(0, 0xFF), (1, 0x01)])) 0x8016 (fun t =>
    t.reg 0 == 0x7F && t.vf == 1) = true := by decide

/-- A24. -/
theorem test_shl : runs (start [(1, 0x7F)]) 0x801E (fun t => t.reg 0 == 0xFE && t.vf == 0) = true := by decide

/-- A25. -/
theorem test_shl_quirk : runs (quirked 0x1F (start [(0, 0x80)])) 0x801E (fun t =>
    t.reg 0 == 0x00 && t.vf == 1) = true := by decide

/-- A27. -/
theorem test_rnd : answers (exec (.rnd 3 0x0F) { small with rnd := 0xA7 }) (fun t =>
    t.reg 3 == 0x07) = true := by decide

/-- M1. -/
theorem test_ldI : runs small 0xA300 (fun t => t.index == 0x300) = true := by decide

/-- M2. -/
theorem test_ldVDt : runs { small with delay := 0x2A } 0xF307 (fun t => t.reg 3 == 0x2A) = true := by decide

/-- M4: the write, then the frame boundary. -/
theorem test_ldDtV : runs { ratio 4 (start [(0, 0x03)]) with cadence := 3 } 0xF015 (fun t =>
    t.delay == 2 && t.cadence == 0) = true := by decide

/-- M5. -/
theorem test_ldStV : runs (start [(5, 0x10)]) 0xF518 (fun t => t.sound == 0x10 && t.soundActive) = true := by decide

/-- M8: the sum wraps with no flag. -/
theorem test_addI_wraps : runs { start [(0, 0x05)] with index := 0xFFE } 0xF01E (fun t =>
    t.index == 0x003 && t.vf == 0) = true := by decide

/-- M9: only the low digit selects the glyph. -/
theorem test_ldF : (runs (start [(0, 0x0F)]) 0xF029 (fun t => t.index == 0x09B) &&
    runs (start [(0, 0x1A)]) 0xF029 (fun t => t.index == 0x082)) = true := by decide

/-- M11: the last three bytes of memory. -/
theorem test_ldB_at_top : runs { start [(0, 200)] with index := 0xFFD } 0xF033 (fun t =>
    t.mem.read 0xFFD == 2 && t.mem.read 0xFFE == 0 && t.mem.read 0xFFF == 0 && t.index == 0xFFD) = true := by decide

/-- M12. -/
theorem test_ldB_range : runs { start [(0, 200)] with index := 0xFFE } 0xF033 (fun t =>
    t.halted == .faulted .memRange 0x200 && t.mem.read 0xFFE == 0) = true := by decide

/-- W3, with `memory_increment` on and off. -/
theorem test_storeRegs :
    (runs { start [(0, 0x11), (1, 0x22), (2, 0x33)] with index := 0x300 } 0xF255 (fun t =>
      t.mem.read 0x300 == 0x11 && t.mem.read 0x301 == 0x22 && t.mem.read 0x302 == 0x33 && t.index == 0x303) &&
    runs (quirked 0x0D { start [(0, 0x11)] with index := 0x300 }) 0xF255 (fun t => t.index == 0x300)) = true := by decide

/-- M14, M15: `I` wraps, the stored address does not. -/
theorem test_storeRegs_at_top :
    (runs { start [(0, 0xAB)] with index := 0xFFF } 0xF055 (fun t => t.mem.read 0xFFF == 0xAB && t.index == 0x000) &&
    runs { start [(0, 0xAB)] with index := 0xFFF } 0xF155 (fun t =>
      t.halted == .faulted .memRange 0x200 && t.mem.read 0xFFF == 0 && t.index == 0xFFF)) = true := by decide

/-- M16. -/
theorem test_loadRegs : runs { bytes 0x300 [1, 2, 3] small with index := 0x300 } 0xF265 (fun t =>
    t.reg 0 == 1 && t.reg 1 == 2 && t.reg 2 == 3 && t.reg 3 == 0 && t.index == 0x303) = true := by decide

/-- M17: `VF` is loaded too. -/
theorem test_loadRegs_all :
    runs { bytes 0x300 [0, 1, 2, 3, 4, 5, 6, 7, 8, 9, 10, 11, 12, 13, 14, 15] small with index := 0x300 } 0xFF65
      (fun t => t.reg 0xE == 0x0E && t.vf == 0x0F && t.index == 0x310) = true := by decide

/-- K1, K2. -/
theorem test_skp : (runs ((start [(2, 5)]).keySet 5 true) 0xE29E (fun t => t.pc == 0x204) &&
    runs (start [(2, 5)]) 0xE29E (fun t => t.pc == 0x202)) = true := by decide

/-- K5, K6. -/
theorem test_skp_edges : (runs (start [(2, 0x10)]) 0xE29E (fun t => t.halted == .faulted .keyRange 0x200) &&
    runs ((start [(0xE, 0x0F)]).keySet 15 true) 0xEE9E (fun t => t.pc == 0x204 && t.keys[1] == 0x01)) = true := by decide

/-- K3, K4. -/
theorem test_sknp : (runs (start [(2, 5)]) 0xE2A1 (fun t => t.pc == 0x204) &&
    runs ((start [(2, 5)]).keySet 5 true) 0xE2A1 (fun t => t.pc == 0x202)) = true := by decide

/-- K7, tick 2: the lowest key. -/
theorem test_ldVK_capture : runs ((small.keySet 7 true).keySet 3 true) 0xF50A (fun t =>
    t.reg 5 == 3 && t.keyReleaseLatch && t.pc == 0x200 && t.cadence == 1) = true := by decide

/-- K8, and K7 tick 1. -/
theorem test_ldVK_release :
    (runs { small with keyReleaseLatch := true } 0xF50A (fun t => !t.keyReleaseLatch && t.pc == 0x202) &&
    runs small 0xF50A (fun t => !t.keyReleaseLatch && t.pc == 0x200)) = true := by decide

/-- B2: the right edge, clipped and wrapped. -/
theorem test_drw_right_edge :
    (runs (quirked 0x0B { bytes 0x300 [0xFF] (start [(0, 60)]) with index := 0x300 }) 0xD011 (fun t =>
      dispByte t.display 7 == 0x0F && dispByte t.display 0 == 0 && dispByte t.display 8 == 0 && t.vf == 0 && t.dirty) &&
    runs (quirked 0x03 { bytes 0x300 [0xFF] (start [(0, 60)]) with index := 0x300 }) 0xD011 (fun t =>
      dispByte t.display 7 == 0x0F && dispByte t.display 0 == 0xF0)) = true := by decide

/-- B8: a collision in the second byte column; B11: the display-wait gate. -/
theorem test_drw_collision_and_wait :
    (runs (quirked 0x0B
      { bytes 0x300 [0xFF] (start [(0, 4)]) with
        index := 0x300, display := (Vector.replicate 256 0x00).set 1 0x80 }) 0xD011
      (fun t => dispByte t.display 0 == 0x0F && dispByte t.display 1 == 0x70 && t.vf == 1) &&
    runs { start [(0xF, 0x33)] with displayWaitLatch := true, index := 0x300 } 0xD011 (fun t =>
      t.pc == 0x200 && t.vf == 0x33 && !t.dirty && t.displayWaitLatch && t.cadence == 1)) = true := by decide

/-- A26. -/
theorem test_unimpl : runs (start [(1, 0x11), (2, 0x22)]) 0x8128 (fun t =>
    t.v == (start [(1, 0x11), (2, 0x22)]).v && t.pc == 0x202 && t.cadence == 1) = true := by decide

/-- T2. -/
theorem test_frame_boundary :
    runs { ratio 3 small with cadence := 2, delay := 5, sound := 1, displayWaitLatch := true } 0x6000 (fun t =>
      t.cadence == 0 && t.delay == 4 && t.sound == 0 && !t.displayWaitLatch && !t.soundActive) = true := by decide

/-- CF18. -/
theorem test_fetch_range : answers (step { small with pc := 0xFFF }) (fun t =>
    t.halted == .faulted .fetchRange 0xFFF && t.pc == 0xFFF && t.cadence == 0) = true := by decide

/-- A machine with a program, under an engine. -/
def machine (e : Engine) (rom : List Byte) : State :=
  State.initial { defaultConfig with engine := e, rom := rom, fontData := Vector.replicate 80 0x00 }

/-- E4: the empty ROM under a caching engine. -/
theorem test_cache_miss : answers (step (machine .decodeCache [])) (fun t =>
    t.halted == .faulted .cacheMiss 0x200) = true := by decide

/-- E1, tick 1. -/
theorem test_block_tick : answers (step (machine .basicBlock [0x60, 0x01, 0x70, 0x01, 0x12, 0x02])) (fun t =>
    t.pc == 0x202 && t.reg 0 == 2 && t.cadence == 3 &&
      t.blockCache == [(0x200, [.ldImm 0 1, .addImm 0 1, .jp 0x202])]) = true := by decide

/-- E2's stale slot: the cached descriptor runs, whatever the bytes now are (R218). -/
theorem test_stale_slot :
    answers (step { machine .decodeCache [0x00, 0x00] with mem := [(0x200, 0x6A), (0x201, 0xFF)] }) (fun t =>
      t.reg 0xA == 0 && t.pc == 0x202) = true := by decide

/-- `withFetchWord` places the word for each engine. -/
theorem test_withFetchWord :
    (runs (machine .decodeCache [0x00, 0x00]) 0x6A7B (fun t => t.reg 0xA == 0x7B) &&
    runs (machine .basicBlock [0x00, 0x00]) 0x6A7B (fun t => t.reg 0xA == 0x7B)) = true := by decide

/-- R176, R401: the first and the last font byte, at `FONT_BASE` and `FONT_BASE + 79`. -/
theorem test_reset_font : (State.reset.mem.read 0x050 == 0xF0 && State.reset.mem.read 0x09F == 0x80 &&
    State.reset.mem.read 0x0A0 == 0x00) = true := by decide

/-- R301's code numbers. -/
theorem test_fault_numbers :
    [FaultCode.stackUnderflow, .stackOverflow, .memRange, .fetchRange, .keyRange, .cacheMiss].map FaultCode.number =
      [1, 2, 3, 4, 5, 6] := by decide

/-! ## Witnesses: for each statement with hypotheses, a state and operands that meet them -/

/-- DecodeFollowsOpcodeMap, LoadImmediateCopyAndIndex and the other statements on a row's words: a word for each mask and
match, its free digits at their greatest. -/
theorem test_witness_opcode_rows :
    (0x1FFF &&& 0xF000 : Opcode) = 0x1000 ∧ (0x2FFF &&& 0xF000 : Opcode) = 0x2000 ∧
    (0x3FFF &&& 0xF000 : Opcode) = 0x3000 ∧ (0x4FFF &&& 0xF000 : Opcode) = 0x4000 ∧
    (0x5FF0 &&& 0xF00F : Opcode) = 0x5000 ∧ (0x6FFF &&& 0xF000 : Opcode) = 0x6000 ∧
    (0x7FFF &&& 0xF000 : Opcode) = 0x7000 ∧ (0x8FF0 &&& 0xF00F : Opcode) = 0x8000 ∧
    (0x8FF1 &&& 0xF00F : Opcode) = 0x8001 ∧ (0x8FF2 &&& 0xF00F : Opcode) = 0x8002 ∧
    (0x8FF3 &&& 0xF00F : Opcode) = 0x8003 ∧ (0x8FF4 &&& 0xF00F : Opcode) = 0x8004 ∧
    (0x8FF5 &&& 0xF00F : Opcode) = 0x8005 ∧ (0x8FF6 &&& 0xF00F : Opcode) = 0x8006 ∧
    (0x8FF7 &&& 0xF00F : Opcode) = 0x8007 ∧ (0x8FFE &&& 0xF00F : Opcode) = 0x800E ∧
    (0x9FF0 &&& 0xF00F : Opcode) = 0x9000 ∧ (0xAFFF &&& 0xF000 : Opcode) = 0xA000 ∧
    (0xBFFF &&& 0xF000 : Opcode) = 0xB000 ∧ (0xCFFF &&& 0xF000 : Opcode) = 0xC000 ∧
    (0xDFFF &&& 0xF000 : Opcode) = 0xD000 ∧ (0xEF9E &&& 0xF0FF : Opcode) = 0xE09E ∧
    (0xEFA1 &&& 0xF0FF : Opcode) = 0xE0A1 ∧ (0xFF07 &&& 0xF0FF : Opcode) = 0xF007 ∧
    (0xFF0A &&& 0xF0FF : Opcode) = 0xF00A ∧ (0xFF15 &&& 0xF0FF : Opcode) = 0xF015 ∧
    (0xFF18 &&& 0xF0FF : Opcode) = 0xF018 ∧ (0xFF1E &&& 0xF0FF : Opcode) = 0xF01E ∧
    (0xFF29 &&& 0xF0FF : Opcode) = 0xF029 ∧ (0xFF33 &&& 0xF0FF : Opcode) = 0xF033 ∧
    (0xFF55 &&& 0xF0FF : Opcode) = 0xF055 ∧ (0xFF65 &&& 0xF0FF : Opcode) = 0xF065 ∧
    unassigned 0xFFFF = true ∧ unassigned 0x0000 = true := by decide

/-- SkipsOnImmediateAndRegister's fallback clause: words of digits 5 and 9 whose low digit is not 0. -/
theorem test_witness_skip_fallback :
    (0x5121 &&& 0xF000 : Opcode) = 0x5000 ∧ (0x5121 &&& 0x000F : Opcode) ≠ 0 ∧
    (0x912E &&& 0xF000 : Opcode) = 0x9000 ∧ (0x912E &&& 0x000F : Opcode) ≠ 0 := by decide

/-- FirstMatchingPatternDecides: the first and the last row of the table, and an opcode no row admits. -/
theorem test_witness_first_match :
    (opcodeMap = [] ++ mapMain.head (by decide) :: (mapMain.tail ++ mapAlu ++ mapMisc) ∧
      (mapMain.head (by decide)).pattern.admits 0x00E0 = true) ∧
    (opcodeMap = (mapMain ++ mapAlu ++ mapMisc.dropLast) ++ mapMisc.getLast (by decide) :: [] ∧
      (∀ q ∈ mapMain ++ mapAlu ++ mapMisc.dropLast, q.pattern.admits 0xFF65 = false) ∧
      (mapMisc.getLast (by decide)).pattern.admits 0xFF65 = true) ∧
    ∀ r ∈ opcodeMap, r.pattern.admits 0xFFFF = false :=
  ⟨⟨rfl, by decide⟩, ⟨rfl, by decide, by decide⟩, by decide⟩

/-- DecodeOfEncodeIsIdentity: a well-formed instruction, the fallback too. -/
theorem test_witness_wellFormed : (Instr.drw 0xF 0xF 0xF).WellFormed ∧ (Instr.unimpl 0xFFFF).WellFormed := by decide

/-- A program's parameters under a caching engine: the ROM ends with memory. -/
def topConfig (e : Engine) : Config := { defaultConfig with startAddr := 0xFFC, engine := e, rom := [0x60, 0x05, 0x1F, 0xFC] }

/-- ConstructionChecks: parameters that meet every check, the ROM up to the last byte of memory. -/
theorem test_witness_constructible : Constructible (topConfig .basicBlock) where
  startEven := by decide
  romFits := by decide
  fontFits := by decide
  apart := by
    intro a _ h _
    have h : a < 80 + 80 := h
    have : ¬ (topConfig .basicBlock).startAddr.toNat ≤ a := by
      show ¬ 0xFFC ≤ a
      omega
    contradiction
  ratio := by decide
  limit := by
    intro l h
    cases h

/-- ConstructionChecks: a ROM one byte too long, an odd `START_ADDR`, a `TIMER_RATIO` of 0, a `STACK_LIMIT` of 0. -/
theorem test_witness_not_constructible :
    ¬ Constructible { topConfig .direct with startAddr := 0xFFE } ∧ ¬ Constructible { defaultConfig with startAddr := 0x201 } ∧
    ¬ Constructible { defaultConfig with timerRatio := 0 } ∧ ¬ Constructible { defaultConfig with stackLimit := some 0 } :=
  ⟨fun h => absurd h.romFits (by decide), fun h => absurd h.startEven (by decide), fun h => absurd h.ratio (by decide),
    fun h => absurd (h.limit 0 rfl) (by decide)⟩

/-- The statements on a construction: parameters that are accepted, for each kind of engine. -/
theorem test_witness_construct :
    (State.construct (topConfig .direct) = .next (State.initial (topConfig .direct))) ∧
    (State.construct (topConfig .decodeCache) = .next (State.initial (topConfig .decodeCache))) :=
  ⟨if_pos (by decide), if_pos (by decide)⟩

/-- ConstructionLoadsMemory's addresses: the font's last byte, the ROM's last, and one in neither. -/
theorem test_witness_memory_ranges :
    79 < 80 ∧ 3 < (topConfig .direct).rom.length ∧ (topConfig .direct).fontBase.toNat + 80 ≤ 0x0A0 ∧
    0x0A0 < (topConfig .direct).startAddr.toNat := by decide

/-- ConstructionBuildsDecodeCache: an engine with a cache, and its last slot. -/
theorem test_witness_decode_cache :
    (topConfig .decodeCache).engine ≠ .direct ∧ 2 * 1 < (topConfig .decodeCache).rom.length ∧
    ¬ 2 * 2 < (topConfig .decodeCache).rom.length := by decide

/-- A one-instruction machine for the witnesses, of an engine: a jump to itself at the end of memory. -/
def loopConfig (e : Engine) : Config :=
  { defaultConfig with startAddr := 0xFFE, engine := e, rom := [0x1F, 0xFE], fontData := Vector.replicate 80 0x00 }

/-- A state that meets the invariant, for each engine. -/
theorem loop_inv (e : Engine) : MachineInv (State.initial (loopConfig e)) where
  config := by cases e <;> decide
  memory := by cases e <;> decide
  cadence := by
    show 0 < 10
    decide
  stack := by
    intro l h
    cases h
  cache := rfl
  blocks := by
    refine ⟨rfl, fun a b h => ?_⟩
    cases h

/-- EveryStepKeepsInvariant: such a state's step answers a next state, under `direct` and `basic_block`. -/
theorem test_witness_step_invariant :
    (MachineInv (State.initial (loopConfig .direct)) ∧ ∃ t, step (State.initial (loopConfig .direct)) = .next t) ∧
    (MachineInv (State.initial (loopConfig .basicBlock)) ∧ ∃ t, step (State.initial (loopConfig .basicBlock)) = .next t) := by
  have h1 : answers (step (State.initial (loopConfig .direct))) (fun _ => true) = true := by decide
  have h2 : answers (step (State.initial (loopConfig .basicBlock))) (fun _ => true) = true := by decide
  obtain ⟨t, ht, _⟩ := answers_next h1
  obtain ⟨u, hu, _⟩ := answers_next h2
  exact ⟨⟨loop_inv _, t, ht⟩, ⟨loop_inv _, u, hu⟩⟩

/-- HostMovesChangeKeysAndDirtyAlone: the last key, and a state that meets the invariant. -/
theorem test_witness_host_move : 15 < 16 ∧ MachineInv (State.initial (loopConfig .direct)) := ⟨by decide, loop_inv _⟩

/-- DirectStepRunsDecodedInstruction, UnimplementedIsNoOp: the last address with both bytes in memory, holding `00 00`. -/
theorem test_witness_direct_step :
    small.halted = .running ∧ small.config.engine = .direct ∧ (0xFFE : Addr).toNat + 1 < 4096 ∧
    decode (BitVec.ofNat 16 (256 * (small.mem.read 0xFFE).toNat + (small.mem.read 0xFFF).toNat)) = .unimpl 0x0000 ∧
    unassigned (opcodeAt small.mem 0xFFE) = true := by decide

/-- RandomByteIsMasked's second clause: a step on a `CXNN` word answers a next state. -/
theorem test_witness_random :
    ∃ s t : State, s.halted = .running ∧ s.config.engine = .direct ∧ s.pc.toNat + 1 < 4096 ∧
      decode (opcodeAt s.mem s.pc.toNat) = .rnd 3 0x0F ∧ step s = .next t := by
  have h : answers (step (bytes 0x200 [0xC3, 0x0F] small)) (fun _ => true) = true := by decide
  obtain ⟨t, ht, _⟩ := answers_next h
  exact ⟨_, t, by decide, by decide, by decide, by decide, ht⟩

/-- CachedStepRunsCachedInstruction, FreshCachedTickEqualsDirectTick: the last slot, its bytes as they were. -/
theorem test_witness_cached_step :
    let s := { State.initial (topConfig .decodeCache) with pc := 0xFFE, mem := [(0xFFE, 0x1F), (0xFFF, 0xFC)] }
    s.halted = .running ∧ s.config.engine = .decodeCache ∧ s.pc.toNat = s.config.startAddr.toNat + 2 * 1 ∧
    s.pc.toNat + 1 < 4096 ∧ s.decodeCache[1]? = some (.jp 0xFFC) ∧
    s.decodeCache[1]? = some (decode (opcodeAt s.mem s.pc.toNat)) := by decide

/-- BlockStepRunsTheBlock's first clause: a block to be built, and the same block once cached. -/
theorem test_witness_block_step :
    let s := State.initial (loopConfig .basicBlock)
    let u := { s with blockCache := [(0xFFE, [.jp 0xFFE])] }
    s.halted = .running ∧ s.config.engine = .basicBlock ∧ cachedBlock s.blockCache s.pc.toNat = none ∧
    s.buildBlock s.pc.toNat = some [.jp 0xFFE] ∧ cachedBlock u.blockCache u.pc.toNat = some [.jp 0xFFE] := by decide

/-- JumpToSelfIsAOneInstructionBlock: such a slot, its block not cached, and cached. -/
theorem test_witness_jump_to_self :
    let s := State.initial (loopConfig .basicBlock)
    let u := { s with blockCache := [(0xFFE, [.jp 0xFFE])] }
    s.halted = .running ∧ s.config.engine = .basicBlock ∧ s.pc.toNat = s.config.startAddr.toNat + 2 * 0 ∧
    s.decodeCache[0]? = some (.jp s.pc) ∧ cachedBlock s.blockCache s.pc.toNat = none ∧
    cachedBlock u.blockCache u.pc.toNat = some [.jp u.pc] := by decide

/-- CachesAreNeverInvalidated: a step on a state with a cached block, and an instruction that completes. -/
theorem test_witness_cached_block_stays :
    (∃ t, exec (.jp 0xFFE) small = .next t) ∧
    ∃ s t : State, step s = .next t ∧ cachedBlock s.blockCache 0xFFE = some [.jp 0xFFE] := by
  have h : answers (step { State.initial (loopConfig .basicBlock) with blockCache := [(0xFFE, [.jp 0xFFE])] })
      (fun _ => true) = true := by decide
  obtain ⟨t, ht, _⟩ := answers_next h
  exact ⟨⟨_, rfl⟩, _, t, ht, rfl⟩

/-- BlockStepRunsTheBlock's last clause: a sorted cache. -/
theorem test_witness_blocks_sorted : blocksSorted 0 [(0x200, [.cls]), (0xFFE, [.ret])] = true := by decide

/-- BlockTickEqualsCachedTicks: a tick under `basic_block` that does not fault. -/
theorem test_witness_block_tick :
    ∃ s t : State, MachineInv s ∧ s.halted = .running ∧ s.config.engine = .basicBlock ∧ step s = .next t ∧
      t.halted = .running := by
  have h : answers (step (State.initial (loopConfig .basicBlock))) (fun t => decide (t.halted = .running)) = true := by
    decide
  obtain ⟨t, ht, hr⟩ := answers_next h
  exact ⟨_, t, loop_inv .basicBlock, by decide, by decide, ht, of_decide_eq_true hr⟩

/-- FailedFetchRecordsItsFault: a `pc` at 0xFFF, and a `pc` at no slot (the first address after the ROM, an odd one), under
both caching engines. -/
theorem test_witness_failed_fetch :
    ({ small with pc := 0xFFF } : State).halted = .running ∧ small.config.engine = .direct ∧
    (machine .decodeCache []).config.engine = .decodeCache ∧ (machine .basicBlock []).config.engine = .basicBlock ∧
    cachedBlock (machine .basicBlock []).blockCache 0x200 = none ∧
    (∀ k, (0x202 : Addr).toNat = (0x200 : Addr).toNat + 2 * k → [Instr.cls].length ≤ k) ∧
    (∀ k, (0x201 : Addr).toNat = (0x200 : Addr).toNat + 2 * k → [Instr.cls].length ≤ k) := by
  refine ⟨by decide, by decide, by decide, by decide, by decide, fun k h => ?_, fun k h => ?_⟩
  · have h : 0x202 = 0x200 + 2 * k := h
    show 1 ≤ k
    omega
  · have h : 0x201 = 0x200 + 2 * k := h
    show 1 ≤ k
    omega

/-- FaultedCoreChangesNothing: a faulted core. -/
theorem test_witness_faulted : ({ small with halted := .faulted .memRange 0xFFE } : State).halted = .faulted .memRange 0xFFE := rfl

/-- FaultingInstructionWritesItsRecordAlone: an instruction that faults on a running core. -/
theorem test_witness_faulting_instruction :
    ∃ (i : Instr) (s t : State), s.halted = .running ∧ exec i s = .next t ∧ t.halted ≠ .running := by
  have h : answers (exec .ret small) (fun t => decide (t.halted ≠ .running)) = true := by decide
  obtain ⟨t, ht, hr⟩ := answers_next h
  exact ⟨.ret, small, t, by decide, ht, of_decide_eq_true hr⟩

/-- FaultingTickTakesNoCadenceStep: a tick that faults, in its instruction and in its fetch. -/
theorem test_witness_faulting_tick :
    (∃ s t : State, s.halted = .running ∧ s.config.engine ≠ .basicBlock ∧ step s = .next t ∧ t.halted ≠ .running) ∧
    ∃ s t : State, s.halted = .running ∧ s.config.engine ≠ .basicBlock ∧ step s = .next t ∧ t.halted ≠ .running := by
  have h : answers (step (bytes 0x200 [0x00, 0xEE] small)) (fun t => decide (t.halted ≠ .running)) = true := by decide
  have h' : answers (step (machine .decodeCache [])) (fun t => decide (t.halted ≠ .running)) = true := by decide
  obtain ⟨t, ht, hr⟩ := answers_next h
  obtain ⟨t', ht', hr'⟩ := answers_next h'
  exact ⟨⟨_, t, by decide, by decide, ht, of_decide_eq_true hr⟩, ⟨_, t', by decide, by decide, ht', of_decide_eq_true hr'⟩⟩

/-- CadenceStepAndFrameBoundary, TimersCountDownOncePerFrame: the last step of a frame, one before it, and a frame's
start. -/
theorem test_witness_cadence :
    ({ small with cadence := 9 } : State).cadence + 1 = small.config.timerRatio ∧
    ({ small with cadence := 8 } : State).cadence + 1 ≠ small.config.timerRatio ∧ small.cadence = 0 ∧
    1 ≤ (ratio 1 small).config.timerRatio := by decide

/-- OnlyTerminatorsUsePc: an instruction that is no terminator and completes. -/
theorem test_witness_non_terminator : isTerminator (.ldB 0xF) = false ∧ ∃ t, exec (.ldB 0xF) small = .next t := by
  have h : answers (exec (.ldB 0xF) small) (fun _ => true) = true := by decide
  obtain ⟨t, ht, _⟩ := answers_next h
  exact ⟨by decide, t, ht⟩

/-- BlockRunsToFirstTerminator: a block that ends at a terminator, one that ends at the last slot, and no slot. -/
theorem test_witness_build_block :
    (machine .basicBlock [0x60, 0x01, 0x12, 0x00, 0x00, 0xE0]).buildBlock 0x200 = some [.ldImm 0 1, .jp 0x200] ∧
    (machine .basicBlock [0x60, 0x01, 0x12, 0x00, 0x00, 0xE0]).buildBlock 0x204 = some [.cls] ∧
    (machine .basicBlock [0x60, 0x01, 0x12, 0x00, 0x00, 0xE0]).buildBlock 0x206 = none := by decide

/-- StepKeepsParametersKeysAndDirty: a step on a state whose `dirty` is set. -/
theorem test_witness_step_dirty : ∃ s t : State, step s = .next t ∧ s.dirty = true := by
  have h : answers (step { small with dirty := true }) (fun _ => true) = true := by decide
  obtain ⟨t, ht, _⟩ := answers_next h
  exact ⟨_, t, ht, rfl⟩

/-- The statements on what every instruction leaves alone (NoInstructionChangesHostOrEngineState,
OnlyTwoStoresWriteMemory): an instruction that is no store, and completes. -/
theorem test_witness_completes :
    ∃ t, exec (.jp 0xFFF) small = .next t ∧ (∀ x, Instr.jp 0xFFF ≠ .ldB x) ∧ (∀ x, Instr.jp 0xFFF ≠ .storeRegs x) :=
  ⟨_, rfl, by simp, by simp⟩

/-- OnlyClearAndDrawWriteDisplay: an instruction that is neither, one that changes the display, and one that finds
`dirty` set. -/
theorem test_witness_display_writers :
    (Instr.ret ≠ .cls ∧ ∀ x y n, Instr.ret ≠ .drw x y n) ∧
    (∃ s t : State, exec .cls s = .next t ∧ t.display ≠ s.display ∧ s.dirty = true) := by
  refine ⟨⟨by simp, by simp⟩, { small with display := Vector.replicate 256 0x80, dirty := true }, _, rfl, fun h => ?_, rfl⟩
  have := congrArg (fun d => dispByte d 0) h
  exact absurd this (by decide)

/-- WritersOfStackIndexTimersAndLatches: an instruction that changes each of the six elements. -/
theorem test_witness_element_writers :
    (∃ t, exec (.call 0xFFF) small = .next t ∧ t.stack ≠ small.stack) ∧
    (∃ t, exec (.ldI 0xFFF) small = .next t ∧ t.index ≠ small.index) ∧
    (∃ t, exec (.ldDtV 0) (start [(0, 1)]) = .next t ∧ t.delay ≠ (start [(0, 1)]).delay) ∧
    (∃ t, exec (.ldStV 0) (start [(0, 1)]) = .next t ∧ t.sound ≠ (start [(0, 1)]).sound) ∧
    (∃ t, exec (.drw 0 0 0) small = .next t ∧ t.displayWaitLatch ≠ small.displayWaitLatch) ∧
    (∃ t, exec (.ldVK 0) (small.keySet 0xF true) = .next t ∧
      t.keyReleaseLatch ≠ (small.keySet 0xF true).keyReleaseLatch) := by
  have h4 : answers (exec (.drw 0 0 0) small) (fun t => decide (t.displayWaitLatch ≠ small.displayWaitLatch)) = true := by
    decide
  have h5 : answers (exec (.ldVK 0) (small.keySet 0xF true)) (fun t =>
      decide (t.keyReleaseLatch ≠ (small.keySet 0xF true).keyReleaseLatch)) = true := by decide
  obtain ⟨t, ht, hr⟩ := answers_next h4
  obtain ⟨u, hu, hq⟩ := answers_next h5
  exact ⟨⟨_, rfl, by decide⟩, ⟨_, rfl, by decide⟩, ⟨_, rfl, by decide⟩, ⟨_, rfl, by decide⟩, ⟨t, ht, of_decide_eq_true hr⟩,
    ⟨u, hu, of_decide_eq_true hq⟩⟩

/-- WritersOfVF: an instruction that changes `VF`, as a flag and as the destination. -/
theorem test_witness_vf_writers :
    (∃ t, exec (.sub 0 1) small = .next t ∧ t.vf ≠ small.vf) ∧
    (∃ t, exec (.ldImm 0xF 0xFF) small = .next t ∧ t.vf ≠ small.vf) :=
  ⟨⟨_, rfl, by decide⟩, ⟨_, rfl, by decide⟩⟩

/-- ReturnPopsOrUnderflows: a stack of one element, and the empty one. -/
theorem test_witness_return :
    ({ small with stack := [0xFFE] } : State).stack = [] ++ [0xFFE] ∧ small.stack = [] := by decide

/-- CallPushesOrOverflows: no limit, a limit above the depth by one, and a limit reached. -/
theorem test_witness_call :
    small.config.stackLimit ≠ some small.stack.length ∧ (some 1 : Option Nat) ≠ some small.stack.length ∧
    (some 1 : Option Nat) = some ({ small with stack := [0x202] } : State).stack.length := by decide

/-- LogicOperations, ShiftsSetBitShiftedOut: their operands are any; the hypothesis names the result. -/
theorem test_witness_operands :
    (Instr.orReg 0xF 0xF = .orReg 0xF 0xF ∧ small.reg 0xF = small.reg 0xF ||| small.reg 0xF) ∧
    0 = (if small.config.quirks.shiftUsesVy = true then small.reg 0xF else small.reg 0).toNat := by decide

/-- BcdStore: the last `I` that fits and the first that does not, in canonical memory. -/
theorem test_witness_bcd :
    (0xFFD : Addr).toNat + 2 < 4096 ∧ 4096 ≤ (0xFFE : Addr).toNat + 2 ∧ small.mem.wf = true := by decide

/-- RegisterBlockStore, RegisterBlockLoad: the last `I` that fits all sixteen registers and the first that does not, and
the last register of the block. -/
theorem test_witness_block_transfer :
    (0xFF0 : Addr).toNat + (0xF : Nibble).toNat < 4096 ∧ 4096 ≤ (0xFF1 : Addr).toNat + (0xF : Nibble).toNat ∧
    small.mem.wf = true ∧ (0xF : Nibble).toNat ≤ (0xF : Nibble).toNat := by decide

/-- KeySkips: the last key number, and the first number that is no key. -/
theorem test_witness_key_skip :
    ((start [(0, 15)]).reg 0).toNat < 16 ∧ 16 ≤ ((start [(0, 16)]).reg 0).toNat := by decide

/-- KeyWait: key 15 alone down; none down with the latch set and clear. -/
theorem test_witness_key_wait :
    (15 < 16 ∧ (small.keySet 0xF true).keyDown 15 = true ∧ ∀ j, j < 15 → (small.keySet 0xF true).keyDown j = false) ∧
    (∀ k, k < 16 → small.keyDown k = false) ∧ ({ small with keyReleaseLatch := true } : State).keyReleaseLatch = true ∧
    small.keyReleaseLatch = false := by decide

/-- DrawWaitsFaultsOrCompletes: a draw that waits, one whose second row is the first address outside memory. -/
theorem test_witness_draw_stops :
    (small.config.quirks.displayWait = true ∧ ({ small with displayWaitLatch := true } : State).displayWaitLatch = true) ∧
    (¬ (small.config.quirks.displayWait = true ∧ small.displayWaitLatch = true) ∧ 0 < shownRows small 0 2 ∧
      4096 ≤ (0xFFF : Addr).toNat + shownRows small 0 2 - 1) := by decide

/-- DrawIsPixelwiseXor and the completing clause: a draw that proceeds, of one row at the last byte of memory; and one of no
row. -/
theorem test_witness_draw_proceeds :
    DrawProceeds { small with index := 0xFFF } 0 1 ∧ DrawProceeds { small with index := 0xFFF } 0 0 := by
  constructor <;> (unfold DrawProceeds; decide)

/-- DrawingTwiceRestoresDisplay: without display-wait, two registers that are not `VF`. -/
theorem test_witness_draw_twice :
    (quirked 0x0B small).config.quirks.displayWait = false ∧ (0xE : Nibble) ≠ 0xF ∧ (0x0 : Nibble) ≠ 0xF ∧
    DrawProceeds { quirked 0x0B small with index := 0xFFF } 0 1 := by
  refine ⟨by decide, by decide, by decide, ?_⟩
  unfold DrawProceeds
  decide

end Sys2Proof.Tests
end

section
/-! What every instruction, and every run of a block, leaves unchanged; a block cache after a block is stored in it. -/

namespace Sys2Proof.Machine

/-- No instruction writes the parameters, the keys, either cache, the cadence counter, or what `beginEval` supplied: it
keeps every field this update does not name. -/
theorem exec_frame {i : Instr} {s t : State} (h : exec i s = .next t) :
    t = { s with
      v := t.v, pc := t.pc, index := t.index, stack := t.stack, delay := t.delay, sound := t.sound
      displayWaitLatch := t.displayWaitLatch, keyReleaseLatch := t.keyReleaseLatch, dirty := t.dirty
      halted := t.halted, display := t.display, mem := t.mem } := by
  cases i with
  | cls | jp | ldImm | addImm | ldReg | addReg | sub | shr | subn | shl | ldI | jpV0 | rnd | ldVDt | ldDtV | ldStV
  | addI | ldF | unimpl =>
    cases h
    rfl
  | seImm | sneImm | seReg | sneReg =>
    cases h
    rw [State.skipIf_eq]
  | orReg | andReg | xorReg =>
    cases h
    rw [State.setLogicResult_frame]
  | ret | call | ldB | storeRegs | loadRegs =>
    simp only [exec, execRet, execCall, execLdB, execStoreRegs, execLoadRegs] at h
    split at h <;> cases h <;> rfl
  | drw | ldVK =>
    simp only [exec, execDrw, execLdVK] at h
    split at h
    · cases h
      rfl
    · split at h <;> cases h <;> rfl
  | skp | sknp =>
    simp only [exec, execSkp, execSknp, keySkip] at h
    split at h <;> cases h
    · rfl
    · rw [State.skipIf_eq]

/-- A relation that every evaluation establishes, and that is reflexive and transitive, holds over a block's run. -/
theorem runBlock_induction {R : State → State → Prop} (refl : ∀ s, R s s) (trans : ∀ {s u t}, R s u → R u t → R s t)
    (eval : ∀ {i ia s u}, evalInstr i ia s = .next u → R s u) {is : List Instr} {ia : Addr} {s t : State}
    (h : runBlock is ia s = .next t) : R s t := by
  induction is generalizing ia s with
  | nil =>
    cases h
    exact refl _
  | cons i is ih =>
    obtain ⟨u, hu, ⟨_, hrest⟩ | ⟨_, rfl⟩⟩ := runBlock_cons_next h
    · exact trans (eval hu) (ih hrest)
    · exact eval hu

/-- Storing a block leaves the others as they were, in any cache: unlike `cachedBlock_storeBlock`, no order is assumed. -/
theorem cachedBlock_storeBlock_other (c : List (Nat × List Instr)) {e a : Nat} (b : List Instr) (h : a ≠ e) :
    cachedBlock (storeBlock c e b) a = cachedBlock c a := by
  induction c with
  | nil => simp [storeBlock, cachedBlock, h]
  | cons p c ih =>
    obtain ⟨x, y⟩ := p
    unfold storeBlock
    split
    · simp [cachedBlock, h]
    · split
      · subst_vars
        simp [cachedBlock, h]
      · simp only [cachedBlock, ih]

/-- R221: a block is stored only where none is cached, so a block fetch keeps every cached block. -/
theorem State.fetchBlock_keeps_cached {s : State} {blk : List Instr} {c : List (Nat × List Instr)}
    (hf : s.fetchBlock = some (blk, c)) {e : Nat} {b : List Instr} (hc : cachedBlock s.blockCache e = some b) :
    cachedBlock c e = some b := by
  rcases State.fetchBlock_cases s with ⟨_, _, h⟩ | ⟨b', hnone, _, h⟩ | ⟨_, _, h⟩
  · cases h.symm.trans hf
    exact hc
  · cases h.symm.trans hf
    have hne : e ≠ s.pc.toNat := by
      rintro rfl
      cases hnone.symm.trans hc
    rw [cachedBlock_storeBlock_other _ _ hne, hc]
  · cases h.symm.trans hf

end Sys2Proof.Machine
end

section
/-! R62: the caches are never invalidated. -/

namespace Sys2Proof.Safety

open Sys2Proof.Machine

/-- Both caches of `t` are those of `s`. -/
def SameCaches (s t : State) : Prop := t.decodeCache = s.decodeCache ∧ t.blockCache = s.blockCache

theorem SameCaches.refl (s : State) : SameCaches s s := ⟨rfl, rfl⟩

theorem SameCaches.trans {s u t : State} (h : SameCaches s u) (h' : SameCaches u t) : SameCaches s t :=
  ⟨h'.1.trans h.1, h'.2.trans h.2⟩

theorem sameCaches_setPc (s : State) (a : Addr) : SameCaches s (s.setPc a) := ⟨rfl, rfl⟩

theorem sameCaches_exec {i : Instr} {s t : State} (h : exec i s = .next t) : SameCaches s t := by
  rw [exec_frame h]
  exact ⟨rfl, rfl⟩

theorem sameCaches_hostMove (s : State) (m : HostMove) : SameCaches s (s.hostMove m) := by
  cases m <;> exact ⟨rfl, rfl⟩

theorem sameCaches_endEval (s : State) : SameCaches s s.endEval := by
  rcases State.endEval_cases s with ⟨_, h⟩ | ⟨_, h⟩ <;> rw [h]
  · rw [State.cadenceStep_frame]
    exact ⟨rfl, rfl⟩
  · exact SameCaches.refl s

theorem sameCaches_evalInstr {i : Instr} {ia : Addr} {s t : State} (h : evalInstr i ia s = .next t) :
    SameCaches s t := by
  obtain ⟨u, hu, rfl⟩ := evalInstr_next h
  have hbegin : SameCaches s (s.beginEval ia) := ⟨rfl, rfl⟩
  exact hbegin.trans ((sameCaches_exec hu).trans (sameCaches_endEval u))

theorem sameCaches_runBlock {is : List Instr} {ia : Addr} {s t : State} (h : runBlock is ia s = .next t) :
    SameCaches s t :=
  runBlock_induction SameCaches.refl SameCaches.trans sameCaches_evalInstr h

/-- A step keeps both caches, but that a `basic_block` tick leaves the block cache of its fetch. -/
theorem step_caches {s t : State} (h : step s = .next t) :
    SameCaches s t ∨ ∃ b c, s.fetchBlock = some (b, c) ∧ SameCaches (s.setBlockCache c) t := by
  rcases step_cases h with ⟨_, rfl⟩ | ⟨_, _, rfl⟩ | ⟨_, _, i, hi⟩ | ⟨_, _, b, c, hf, hb⟩
  · exact .inl (SameCaches.refl _)
  · exact .inl ⟨rfl, rfl⟩
  · exact .inl ((sameCaches_setPc s _).trans (sameCaches_evalInstr hi))
  · exact .inr ⟨b, c, hf, (sameCaches_setPc _ _).trans (sameCaches_runBlock hb)⟩

/-- Settles O41: only a block fetch writes a cache, and it stores a block only where none is cached. -/
theorem cachesAreNeverInvalidated : Obligations.CachesAreNeverInvalidated := by
  unfold Obligations.CachesAreNeverInvalidated
  refine ⟨fun i s t h => sameCaches_exec h, sameCaches_hostMove, fun s t h => ?_⟩
  rcases step_caches h with ⟨hd, hb⟩ | ⟨_, c, hf, hd, hb⟩
  · exact ⟨hd, fun e b hc => hb ▸ hc⟩
  · exact ⟨hd, fun e b hc => hb ▸ State.fetchBlock_keeps_cached hf hc⟩

end Sys2Proof.Safety
end

section
/-! The fields of an opcode as numbers (30_encoding.md R71), and the decoder as a first match over the pattern table
(R73). -/

namespace Sys2Proof

open Sys2Proof.Machine

/-- Settles O1: each field is its slice of the opcode's number, the top digit a quotient alone as nothing is above it. -/
theorem fieldsByBitPosition : Obligations.FieldsByBitPosition := by
  unfold Obligations.FieldsByBitPosition
  exact fun op => ⟨fieldsOf_x_toNat op, fieldsOf_y_toNat op, fieldsOf_n_toNat op, fieldsOf_nn_toNat op,
    fieldsOf_nnn_toNat op, op4_toNat op, fieldsOf_op op⟩

/-- R73: a digit of a pattern admits a digit when the constant it holds, if it holds one, is that digit. -/
theorem PatDigit.admits_iff (p : PatDigit) (d : Nibble) :
    p.admits d = true ↔ ∀ c, p = .hex c → c.toNat = d.toNat := by
  cases p with
  | hex c => simp [PatDigit.admits, BitVec.toNat_inj]
  | any => simp [PatDigit.admits]

/-- R73: a pattern admits an opcode when each of its digits admits the opcode's. -/
theorem Pattern.admits_iff (p : Pattern) (op : Opcode) :
    p.admits op = true ↔
      (∀ c, p.d3 = .hex c → c.toNat = op.toNat / 4096) ∧ (∀ c, p.d2 = .hex c → c.toNat = op.toNat / 256 % 16) ∧
      (∀ c, p.d1 = .hex c → c.toNat = op.toNat / 16 % 16) ∧ (∀ c, p.d0 = .hex c → c.toNat = op.toNat % 16) := by
  simp only [Pattern.admits, Bool.and_eq_true, PatDigit.admits_iff, op4_toNat, fieldsOf_x_toNat, fieldsOf_y_toNat,
    fieldsOf_n_toNat, and_assoc]

/-- R73: a row that admits the opcode, after rows that do not, builds its instruction. -/
theorem decode_of_first_admitting {op : Opcode} {before after : List Row} {r : Row}
    (hmap : opcodeMap = before ++ r :: after) (hbefore : ∀ q ∈ before, q.pattern.admits op = false)
    (hr : r.pattern.admits op = true) : decode op = r.build (fieldsOf op) := by
  have hfind : opcodeMap.find? (fun q => q.pattern.admits op) = some r :=
    List.find?_eq_some_iff_append.mpr ⟨hr, before, after, hmap, fun q hq => by simp [hbefore q hq]⟩
  simp only [decode, hfind]

/-- R75: an opcode that no row admits is the fallback. -/
theorem decode_of_none_admitting {op : Opcode} (hnone : ∀ r ∈ opcodeMap, r.pattern.admits op = false) :
    decode op = .unimpl op := by
  have hfind : opcodeMap.find? (fun q => q.pattern.admits op) = none :=
    List.find?_eq_none.mpr fun r hr => by simp [hnone r hr]
  simp only [decode, hfind]

/-- R229: the fallback never mutates state. -/
theorem exec_unimpl (op : Opcode) (s : State) : exec (.unimpl op) s = .next s := rfl

/-- Settles O50: the decoder's search stops at the first row that admits the opcode, and finds none when none does. -/
theorem firstMatchingPatternDecides : Obligations.FirstMatchingPatternDecides := by
  unfold Obligations.FirstMatchingPatternDecides
  exact fun op => ⟨fun _ _ _ hmap hbefore hr => decode_of_first_admitting hmap hbefore hr,
    fun hnone => ⟨decode_of_none_admitting hnone, exec_unimpl op⟩, fun p => p.admits_iff op⟩

end Sys2Proof
end

section
/-! The opcode map's rows exclude one another, so that an opcode decodes by whichever row admits it (30_encoding.md
section 2); from that, decoding by mask and match, and the two directions between words and instructions. -/

namespace Sys2Proof

open Sys2Proof.Laws

/-- Two digits of patterns that no digit of an opcode meets both. -/
def PatDigit.clash : PatDigit → PatDigit → Bool
  | .hex c, .hex d => c != d
  | _, _ => false

/-- Two patterns that differ in a constant digit. -/
def Pattern.clash (p q : Pattern) : Bool :=
  p.d3.clash q.d3 || p.d2.clash q.d2 || p.d1.clash q.d1 || p.d0.clash q.d0

theorem PatDigit.not_admits_of_clash {p q : PatDigit} {d : Nibble} (h : p.clash q = true) (hp : p.admits d = true) :
    q.admits d = false := by
  cases p <;> cases q <;> simp_all [PatDigit.clash, PatDigit.admits]
  exact Ne.symm h

theorem Pattern.not_admits_of_clash {p q : Pattern} {op : Opcode} (h : p.clash q = true) (hp : p.admits op = true) :
    q.admits op = false := by
  simp only [Pattern.clash, Pattern.admits, Bool.or_eq_true, Bool.and_eq_true] at h hp
  obtain ⟨⟨⟨h3, h2⟩, h1⟩, h0⟩ := hp
  unfold Pattern.admits
  rcases h with ((h | h) | h) | h
  · simp [PatDigit.not_admits_of_clash h h3]
  · simp [PatDigit.not_admits_of_clash h h2]
  · simp [PatDigit.not_admits_of_clash h h1]
  · simp [PatDigit.not_admits_of_clash h h0]

/-- Any two of the 34 patterns differ in a constant digit. -/
theorem opcodeMap_pairwise_clash : opcodeMap.Pairwise (fun r q => r.pattern.clash q.pattern = true) := by
  decide

theorem PatDigit.clash_comm (p q : PatDigit) : p.clash q = q.clash p := by
  cases p <;> cases q <;> simp [PatDigit.clash, bne_comm]

theorem Pattern.clash_comm (p q : Pattern) : p.clash q = q.clash p := by
  simp only [Pattern.clash, PatDigit.clash_comm]

/-- The row that admits an opcode decides it: of the rows before it, none admits the opcode. -/
theorem decode_of_admits (k : Nat) {op : Opcode} {r : Row} (hk : opcodeMap[k]? = some r)
    (hr : r.pattern.admits op = true) : decode op = r.build (fieldsOf op) := by
  obtain ⟨before, after, hmap⟩ := List.append_of_mem (List.mem_of_getElem? hk)
  refine decode_of_first_admitting hmap (fun q hq => ?_) hr
  have hclash := opcodeMap_pairwise_clash
  rw [hmap, List.pairwise_append] at hclash
  have hqr := hclash.2.2 q hq r (List.mem_cons_self ..)
  exact Pattern.not_admits_of_clash (Pattern.clash_comm _ _ ▸ hqr) hr

/-- Decoding by a row of mask `0xF000`. -/
theorem decode_of_F000 (k : Nat) {op : Opcode} {d : Nibble} {build : Fields → Instr}
    (hk : opcodeMap[k]? = some ⟨⟨.hex d, .any, .any, .any⟩, build⟩) (h : op &&& 0xF000 = opXYN d 0 0 0) :
    decode op = build (fieldsOf op) := by
  rw [and_F000, opXYN_inj] at h
  exact decode_of_admits k hk (by simp [Pattern.admits, PatDigit.admits, h])

/-- Decoding by a row of mask `0xF00F`. -/
theorem decode_of_F00F (k : Nat) {op : Opcode} {d n : Nibble} {build : Fields → Instr}
    (hk : opcodeMap[k]? = some ⟨⟨.hex d, .any, .any, .hex n⟩, build⟩) (h : op &&& 0xF00F = opXYN d 0 0 n) :
    decode op = build (fieldsOf op) := by
  rw [and_F00F, opXYN_inj] at h
  exact decode_of_admits k hk (by simp [Pattern.admits, PatDigit.admits, h])

/-- Decoding by a row of mask `0xF0FF`. -/
theorem decode_of_F0FF (k : Nat) {op : Opcode} {d y n : Nibble} {build : Fields → Instr}
    (hk : opcodeMap[k]? = some ⟨⟨.hex d, .any, .hex y, .hex n⟩, build⟩) (h : op &&& 0xF0FF = opXYN d 0 y n) :
    decode op = build (fieldsOf op) := by
  rw [and_F0FF, opXYN_inj] at h
  exact decode_of_admits k hk (by simp [Pattern.admits, PatDigit.admits, h])

/-- The low byte of a word is its two low digits. -/
theorem fieldsOf_opXYN_nn (d x y n : Nibble) : (fieldsOf (opXYN d x y n)).nn = y ++ n := by
  have h := Nat.shiftLeft_add_eq_or_of_lt n.isLt y.toNat
  apply BitVec.eq_of_toNat_eq
  rw [fieldsOf_nn_toNat, opXYN_toNat, BitVec.toNat_append, ← h, Nat.shiftLeft_eq]
  omega

theorem PatDigit.hex_admits (c d : Nibble) : (PatDigit.hex c).admits d = decide (d = c) := by
  simp [PatDigit.admits, eq_comm, beq_eq_decide]

theorem PatDigit.any_admits (d : Nibble) : PatDigit.any.admits d = true := rfl

/-- R76, for each top digit: its unassigned words are those that none of its rows admits. -/
theorem unassigned_opXYN_iff (d x y n : Nibble) :
    unassigned (opXYN d x y n) = true ↔ ∀ r ∈ opcodeMap, r.pattern.admits (opXYN d x y n) = false := by
  have e0 : (0x00E0#16 : Opcode) = opXYN 0 0 0xE 0 := rfl
  have ee : (0x00EE#16 : Opcode) = opXYN 0 0 0xE 0xE := rfl
  rw [unassigned_opXYN, fieldsOf_opXYN_nn, e0, ee]
  simp only [opcodeMap, mapMain, mapAlu, mapMisc, List.cons_append, List.nil_append, List.forall_mem_cons,
    Pattern.admits_opXYN, PatDigit.hex_admits, PatDigit.any_admits]
  have h8 : ∀ n : Nibble, n ∈ [0x8#4, 0x9#4, 0xA#4, 0xB#4, 0xC#4, 0xD#4, 0xF#4] ↔
      n ∉ [0x0#4, 0x1#4, 0x2#4, 0x3#4, 0x4#4, 0x5#4, 0x6#4, 0x7#4, 0xE#4] := by decide
  have hE : ∀ y n : Nibble, y ++ n ∉ [0x9E#8, 0xA1#8] ↔ (y, n) ∉ [(0x9#4, 0xE#4), (0xA#4, 0x1#4)] := by decide
  have hF : ∀ y n : Nibble,
      y ++ n ∉ [0x07#8, 0x0A#8, 0x15#8, 0x18#8, 0x1E#8, 0x29#8, 0x33#8, 0x55#8, 0x65#8] ↔
        (y, n) ∉ [(0x0#4, 0x7#4), (0x0#4, 0xA#4), (0x1#4, 0x5#4), (0x1#4, 0x8#4), (0x1#4, 0xE#4), (0x2#4, 0x9#4),
          (0x3#4, 0x3#4), (0x5#4, 0x5#4), (0x6#4, 0x5#4)] := by decide
  obtain ⟨k, rfl⟩ : ∃ k : Fin 16, d = BitVec.ofFin k := ⟨d.toFin, rfl⟩
  fin_cases k
  -- the top digits 0xF, 0xE and 0x8, the last first so that the positions below stay; every other one is plain
  pick_goal 16
  · simpa using hF y n
  pick_goal 15
  · simpa using hE y n
  pick_goal 9
  · simpa using h8 n
  all_goals simp [opXYN_inj]

/-- R76: the unassigned opcodes are those that no row admits. -/
theorem unassigned_iff_none_admits (op : Opcode) :
    unassigned op = true ↔ ∀ r ∈ opcodeMap, r.pattern.admits op = false := by
  rw [← opXYN_fieldsOf op]
  exact unassigned_opXYN_iff ..

/-- R76: an unassigned opcode decodes to the fallback. -/
theorem decode_of_unassigned {op : Opcode} (h : unassigned op = true) : decode op = .unimpl op :=
  decode_of_none_admitting ((unassigned_iff_none_admits op).mp h)

/-- Settles O2: each clause is its row of the table, found by the row's mask and match. -/
theorem decodeFollowsOpcodeMap : Obligations.DecodeFollowsOpcodeMap := by
  unfold Obligations.DecodeFollowsOpcodeMap
  rintro op _ _ _ _ _ rfl rfl rfl rfl rfl
  exact ⟨fun h => h ▸ decode_of_admits 0 rfl rfl, fun h => h ▸ decode_of_admits 1 rfl rfl,
    decode_of_F000 2 rfl, decode_of_F000 3 rfl, decode_of_F000 4 rfl, decode_of_F000 5 rfl, decode_of_F00F 6 rfl,
    decode_of_F000 7 rfl, decode_of_F000 8 rfl, decode_of_F00F 14 rfl, decode_of_F00F 15 rfl, decode_of_F00F 16 rfl,
    decode_of_F00F 17 rfl, decode_of_F00F 18 rfl, decode_of_F00F 19 rfl, decode_of_F00F 20 rfl,
    decode_of_F00F 21 rfl, decode_of_F00F 22 rfl, decode_of_F00F 9 rfl, decode_of_F000 10 rfl, decode_of_F000 11 rfl,
    decode_of_F000 12 rfl, decode_of_F000 13 rfl, decode_of_F0FF 23 rfl, decode_of_F0FF 24 rfl,
    decode_of_F0FF 25 rfl, decode_of_F0FF 26 rfl, decode_of_F0FF 27 rfl, decode_of_F0FF 28 rfl,
    decode_of_F0FF 29 rfl, decode_of_F0FF 30 rfl, decode_of_F0FF 31 rfl, decode_of_F0FF 32 rfl,
    decode_of_F0FF 33 rfl, decode_of_unassigned⟩

/-- Settles O3: an instruction's word carries its own row's match, and the fields read from the word are the operands. -/
theorem decodeOfEncodeIsIdentity : Obligations.DecodeOfEncodeIsIdentity := by
  unfold Obligations.DecodeOfEncodeIsIdentity
  intro i hwf
  cases i with
  | cls => exact decode_of_admits 0 rfl rfl
  | ret => exact decode_of_admits 1 rfl rfl
  | jp nnn => simpa [encode] using decode_of_F000 2 rfl (OpcodeRow.jp nnn rfl).1
  | call nnn => simpa [encode] using decode_of_F000 3 rfl (OpcodeRow.call nnn rfl).1
  | seImm x nn => simpa [encode] using decode_of_F000 4 rfl (OpcodeRow.seImm x nn rfl).1
  | sneImm x nn => simpa [encode] using decode_of_F000 5 rfl (OpcodeRow.sneImm x nn rfl).1
  | seReg x y => simpa [encode] using decode_of_F00F 6 rfl (OpcodeRow.seReg x y rfl).1
  | ldImm x nn => simpa [encode] using decode_of_F000 7 rfl (OpcodeRow.ldImm x nn rfl).1
  | addImm x nn => simpa [encode] using decode_of_F000 8 rfl (OpcodeRow.addImm x nn rfl).1
  | ldReg x y => simpa [encode] using decode_of_F00F 14 rfl (OpcodeRow.ldReg x y rfl).1
  | orReg x y => simpa [encode] using decode_of_F00F 15 rfl (OpcodeRow.orReg x y rfl).1
  | andReg x y => simpa [encode] using decode_of_F00F 16 rfl (OpcodeRow.andReg x y rfl).1
  | xorReg x y => simpa [encode] using decode_of_F00F 17 rfl (OpcodeRow.xorReg x y rfl).1
  | addReg x y => simpa [encode] using decode_of_F00F 18 rfl (OpcodeRow.addReg x y rfl).1
  | sub x y => simpa [encode] using decode_of_F00F 19 rfl (OpcodeRow.sub x y rfl).1
  | shr x y => simpa [encode] using decode_of_F00F 20 rfl (OpcodeRow.shr x y rfl).1
  | subn x y => simpa [encode] using decode_of_F00F 21 rfl (OpcodeRow.subn x y rfl).1
  | shl x y => simpa [encode] using decode_of_F00F 22 rfl (OpcodeRow.shl x y rfl).1
  | sneReg x y => simpa [encode] using decode_of_F00F 9 rfl (OpcodeRow.sneReg x y rfl).1
  | ldI nnn => simpa [encode] using decode_of_F000 10 rfl (OpcodeRow.ldI nnn rfl).1
  | jpV0 nnn => simpa [encode] using decode_of_F000 11 rfl (OpcodeRow.jpV0 nnn rfl).1
  | rnd x nn => simpa [encode] using decode_of_F000 12 rfl (OpcodeRow.rnd x nn rfl).1
  | drw x y n => simpa [encode] using decode_of_F000 13 rfl (OpcodeRow.drw x y n rfl).1
  | skp x => simpa [encode] using decode_of_F0FF 23 rfl (OpcodeRow.skp x rfl).1
  | sknp x => simpa [encode] using decode_of_F0FF 24 rfl (OpcodeRow.sknp x rfl).1
  | ldVDt x => simpa [encode] using decode_of_F0FF 25 rfl (OpcodeRow.ldVDt x rfl).1
  | ldVK x => simpa [encode] using decode_of_F0FF 26 rfl (OpcodeRow.ldVK x rfl).1
  | ldDtV x => simpa [encode] using decode_of_F0FF 27 rfl (OpcodeRow.ldDtV x rfl).1
  | ldStV x => simpa [encode] using decode_of_F0FF 28 rfl (OpcodeRow.ldStV x rfl).1
  | addI x => simpa [encode] using decode_of_F0FF 29 rfl (OpcodeRow.addI x rfl).1
  | ldF x => simpa [encode] using decode_of_F0FF 30 rfl (OpcodeRow.ldF x rfl).1
  | ldB x => simpa [encode] using decode_of_F0FF 31 rfl (OpcodeRow.ldB x rfl).1
  | storeRegs x => simpa [encode] using decode_of_F0FF 32 rfl (OpcodeRow.storeRegs x rfl).1
  | loadRegs x => simpa [encode] using decode_of_F0FF 33 rfl (OpcodeRow.loadRegs x rfl).1
  | unimpl op => exact decode_of_unassigned hwf

/-- Each row's instruction is well formed, and is written back as the opcode its fields were read from: the number of the
word is put together from the digits the pattern fixes and the fields. -/
theorem encode_build (op : Opcode) : ∀ r ∈ opcodeMap, r.pattern.admits op = true →
    encode (r.build (fieldsOf op)) = op ∧ (r.build (fieldsOf op)).WellFormed := by
  have hlt := op.isLt
  simp only [opcodeMap, mapMain, mapAlu, mapMisc, List.cons_append, List.nil_append, List.forall_mem_cons,
    List.not_mem_nil, Pattern.admits_iff, PatDigit.hex.injEq, forall_eq', reduceCtorEq, false_implies, implies_true,
    and_true, BitVec.reduceToNat, and_imp]
  repeat' apply And.intro
  all_goals
    intros
    refine ⟨BitVec.eq_of_toNat_eq ?_, rfl⟩
    simp only [encode, opNNN_toNat, opXNN_toNat, opXYN_toNat, fieldsOf_x_toNat, fieldsOf_y_toNat, fieldsOf_n_toNat,
      fieldsOf_nn_toNat, fieldsOf_nnn_toNat, BitVec.reduceToNat]
    omega

/-- What the decoder gives is well formed and is written back as the opcode it was read from. -/
theorem encode_decode (op : Opcode) : encode (decode op) = op ∧ (decode op).WellFormed := by
  cases hf : opcodeMap.find? (fun r => r.pattern.admits op) with
  | none =>
    have hnone : ∀ r ∈ opcodeMap, r.pattern.admits op = false := by simpa using List.find?_eq_none.mp hf
    rw [decode_of_none_admitting hnone]
    exact ⟨rfl, (unassigned_iff_none_admits op).mpr hnone⟩
  | some r =>
    have hr := encode_build op r (List.mem_of_find?_eq_some hf) (List.find?_eq_some_iff_append.mp hf).1
    simpa only [decode, hf] using hr

/-- Settles O4: the decoder finds a row, whose instruction encodes back, or none, and the fallback keeps the word. -/
theorem encodeOfDecodeIsIdentity : Obligations.EncodeOfDecodeIsIdentity := by
  unfold Obligations.EncodeOfDecodeIsIdentity
  exact encode_decode

/-- Settles O5: two rows that admit an opcode would exclude one another, and none admits exactly the unassigned ones. -/
theorem opcodeMatchesAtMostOneRow : Obligations.OpcodeMatchesAtMostOneRow := by
  unfold Obligations.OpcodeMatchesAtMostOneRow
  intro op
  have hadmits : ∀ r ∈ opcodeMap.filter (fun r => r.pattern.admits op), r ∈ opcodeMap ∧ r.pattern.admits op = true :=
    fun r hr => List.mem_filter.mp hr
  have hclash := opcodeMap_pairwise_clash.filter (fun r => r.pattern.admits op)
  cases hf : opcodeMap.filter (fun r => r.pattern.admits op) with
  | nil =>
    have hun : unassigned op = true :=
      (unassigned_iff_none_admits op).mpr fun r hr => by simpa using List.filter_eq_nil_iff.mp hf r hr
    simp [hun]
  | cons r rs =>
    rw [hf] at hadmits hclash
    obtain ⟨hmem, hr⟩ := hadmits r (List.mem_cons_self ..)
    have hun : ¬ unassigned op = true := fun h => by
      simp [(unassigned_iff_none_admits op).mp h r hmem] at hr
    cases rs with
    | nil => simp [hun]
    | cons q qs =>
      have hq := (hadmits q (by simp)).2
      have hrq := (List.pairwise_cons.mp hclash).1 q (List.mem_cons_self ..)
      simp [Pattern.not_admits_of_clash hrq hr] at hq

/-- Settles O6: each word is decoded by evaluation. -/
theorem decodedWordsOfEveryRow : Obligations.DecodedWordsOfEveryRow := by
  unfold Obligations.DecodedWordsOfEveryRow
  and_intros <;> rfl

end Sys2Proof
end

section
/-! What the instructions do, once: an equation for each branch of a rule that branches, and the effect of every
instruction by the elements it writes. -/

namespace Sys2Proof.Machine

open Sys2Proof.Safety

theorem exec_ret_underflow {s : State} (h : s.top = none) : exec .ret s = .next (s.raise .stackUnderflow) := by
  simp only [exec, execRet, h]

theorem exec_ret_pop {s : State} {a : Addr} (h : s.top = some a) : exec .ret s = .next (s.dropTop.setPc a) := by
  simp only [exec, execRet, h]

theorem exec_call_overflow {s : State} (nnn : Addr) (h : s.config.stackLimit = some s.stack.length) :
    exec (.call nnn) s = .next (s.raise .stackOverflow) :=
  if_pos (decide_eq_true h)

theorem exec_call_push {s : State} (nnn : Addr) (h : s.config.stackLimit ≠ some s.stack.length) :
    exec (.call nnn) s = .next ((s.push s.pc).setPc nnn) :=
  if_neg (by simpa [State.stackFull] using h)

theorem exec_ldB_range {s : State} (x : Nibble) (h : 4096 ≤ s.index.toNat + 2) :
    exec (.ldB x) s = .next (s.raise .memRange) :=
  if_pos ((outOfRange_iff _).mpr h)

theorem exec_ldB {s : State} (x : Nibble) (h : s.index.toNat + 2 < 4096) :
    exec (.ldB x) s = .next (s.setMem (s.mem.writeBytes (s.effAddr 0) (bcdDigits (s.reg x)))) :=
  if_neg (mt (outOfRange_iff _).mp (Nat.not_le.mpr h))

theorem exec_storeRegs_range {s : State} (x : Nibble) (h : 4096 ≤ s.index.toNat + x.toNat) :
    exec (.storeRegs x) s = .next (s.raise .memRange) :=
  if_pos ((outOfRange_iff _).mpr h)

theorem exec_storeRegs {s : State} (x : Nibble) (h : s.index.toNat + x.toNat < 4096) :
    exec (.storeRegs x) s =
      .next ((s.setMem (s.mem.writeBytes (s.effAddr 0) (s.blockBytes x))).setIndex (s.indexAfterBlock x)) :=
  if_neg (mt (outOfRange_iff _).mp (Nat.not_le.mpr h))

theorem exec_loadRegs_range {s : State} (x : Nibble) (h : 4096 ≤ s.index.toNat + x.toNat) :
    exec (.loadRegs x) s = .next (s.raise .memRange) :=
  if_pos ((outOfRange_iff _).mpr h)

theorem exec_loadRegs {s : State} (x : Nibble) (h : s.index.toNat + x.toNat < 4096) :
    exec (.loadRegs x) s = .next ((s.setRegs (s.loadBlock x)).setIndex (s.indexAfterBlock x)) :=
  if_neg (mt (outOfRange_iff _).mp (Nat.not_le.mpr h))

theorem exec_skp_range {s : State} {x : Nibble} (h : 16 ≤ (s.reg x).toNat) :
    exec (.skp x) s = .next (s.raise .keyRange) :=
  if_pos h

theorem exec_skp {s : State} {x : Nibble} (h : (s.reg x).toNat < 16) :
    exec (.skp x) s = .next (s.skipIf (s.keyDown (s.reg x).toNat == true)) :=
  if_neg (Nat.not_le.mpr h)

theorem exec_sknp_range {s : State} {x : Nibble} (h : 16 ≤ (s.reg x).toNat) :
    exec (.sknp x) s = .next (s.raise .keyRange) :=
  if_pos h

theorem exec_sknp {s : State} {x : Nibble} (h : (s.reg x).toNat < 16) :
    exec (.sknp x) s = .next (s.skipIf (s.keyDown (s.reg x).toNat == false)) :=
  if_neg (Nat.not_le.mpr h)

theorem exec_ldVK_capture {s : State} (x : Nibble) {k : Nat} (h : s.lowestKey = some k) :
    exec (.ldVK x) s = .next (((s.setReg x (BitVec.ofNat 8 k)).setKeyReleaseLatch true).rewindPc) := by
  simp only [exec, execLdVK, h]

theorem exec_ldVK_release {s : State} (x : Nibble) (h : s.lowestKey = none) (hl : s.keyReleaseLatch = true) :
    exec (.ldVK x) s = .next (s.setKeyReleaseLatch false) := by
  simp only [exec, execLdVK, h, hl, if_true]

theorem exec_ldVK_wait {s : State} (x : Nibble) (h : s.lowestKey = none) (hl : s.keyReleaseLatch = false) :
    exec (.ldVK x) s = .next s.rewindPc := by
  simp only [exec, execLdVK, h, hl, Bool.false_eq_true, if_false]

theorem exec_drw_wait {s : State} (x y n : Nibble) (h : s.drawWaits = true) :
    exec (.drw x y n) s = .next s.rewindPc :=
  if_pos h

theorem exec_drw_range {s : State} (x : Nibble) {y n : Nibble} (hw : s.drawWaits = false)
    (h : s.drawOutOfRange y n = true) : exec (.drw x y n) s = .next (s.raise .memRange) := by
  simp only [exec, execDrw, hw, h, Bool.false_eq_true, if_false, if_true]

theorem exec_drw {s : State} (x : Nibble) {y n : Nibble} (hw : s.drawWaits = false) (h : s.drawOutOfRange y n = false) :
    exec (.drw x y n) s = .next (s.draw x y n) := by
  simp only [exec, execDrw, hw, h, Bool.false_eq_true, if_false]

/-- Which instructions fault, and with which code (60_exceptions.md R301). -/
inductive FaultRow : Instr → FaultCode → Prop where
  | ret : FaultRow .ret .stackUnderflow
  | call (nnn : Addr) : FaultRow (.call nnn) .stackOverflow
  | drw (x y n : Nibble) : FaultRow (.drw x y n) .memRange
  | ldB (x : Nibble) : FaultRow (.ldB x) .memRange
  | storeRegs (x : Nibble) : FaultRow (.storeRegs x) .memRange
  | loadRegs (x : Nibble) : FaultRow (.loadRegs x) .memRange
  | skp (x : Nibble) : FaultRow (.skp x) .keyRange
  | sknp (x : Nibble) : FaultRow (.sknp x) .keyRange

/-- What an instruction does to a state, by the elements it writes: its fault's record alone, or its result. -/
inductive Effect (s : State) : Instr → State → Prop where
  | fault {i : Instr} {code : FaultCode} (h : FaultRow i code) : Effect s i (s.raise code)
  | none (op : Opcode) : Effect s (.unimpl op) s
  | reg {i : Instr} {x : Nibble}
      (h : (∃ nn, i = .ldImm x nn ∨ i = .addImm x nn ∨ i = .rnd x nn) ∨ (∃ y, i = .ldReg x y) ∨ i = .ldVDt x) (b : Byte) :
      Effect s i (s.setReg x b)
  | logic {i : Instr} {x : Nibble} (h : ∃ y, i = .orReg x y ∨ i = .andReg x y ∨ i = .xorReg x y) (b : Byte) :
      Effect s i (s.setRegs (s.setLogicResult x b).v)
  | flag {i : Instr} (h : ∃ x y, i = .addReg x y ∨ i = .sub x y ∨ i = .shr x y ∨ i = .subn x y ∨ i = .shl x y)
      (x : Nibble) (b : Byte) (f : Bool) : Effect s i (s.setResultFlag x b f)
  | pc {i : Instr} (h : isTerminator i = true) (a : Addr) : Effect s i (s.setPc a)
  | cls (d : Vector Byte 256) : Effect s .cls ((s.setDisplay d).setDirty true)
  | ret (a : Addr) : Effect s .ret (s.dropTop.setPc a)
  | call (nnn : Addr) (h : s.config.stackLimit ≠ some s.stack.length) :
      Effect s (.call nnn) ((s.push s.pc).setPc nnn)
  | ldI (nnn : Addr) : Effect s (.ldI nnn) (s.setIndex nnn)
  | addI (x : Nibble) (a : Addr) : Effect s (.addI x) (s.setIndex a)
  | ldF (x : Nibble) (a : Addr) : Effect s (.ldF x) (s.setIndex a)
  | ldDtV (x : Nibble) (b : Byte) : Effect s (.ldDtV x) (s.setDelay b)
  | ldStV (x : Nibble) (b : Byte) : Effect s (.ldStV x) (s.setSound b)
  | ldB (x : Nibble) (h : s.index.toNat + 2 < 4096) :
      Effect s (.ldB x) (s.setMem (s.mem.writeBytes (s.effAddr 0) (bcdDigits (s.reg x))))
  | storeRegs (x : Nibble) (h : s.index.toNat + x.toNat < 4096) :
      Effect s (.storeRegs x)
        ((s.setMem (s.mem.writeBytes (s.effAddr 0) (s.blockBytes x))).setIndex (s.indexAfterBlock x))
  | loadRegs (x : Nibble) : Effect s (.loadRegs x) ((s.setRegs (s.loadBlock x)).setIndex (s.indexAfterBlock x))
  | capture (x : Nibble) (b : Byte) : Effect s (.ldVK x) (((s.setReg x b).setKeyReleaseLatch true).rewindPc)
  | release (x : Nibble) : Effect s (.ldVK x) (s.setKeyReleaseLatch false)
  | draw (x y n : Nibble) : Effect s (.drw x y n) (s.draw x y n)

theorem Effect.logicResult {s : State} {i : Instr} {x : Nibble}
    (h : ∃ y, i = .orReg x y ∨ i = .andReg x y ∨ i = .xorReg x y) (b : Byte) : Effect s i (s.setLogicResult x b) := by
  rw [State.setLogicResult_frame]
  exact .logic h b

theorem Effect.skip {s : State} {i : Instr} (h : isTerminator i = true) (c : Bool) : Effect s i (s.skipIf c) := by
  rw [State.skipIf_eq]
  exact .pc h _

/-- Every instruction in every state answers a state, with an effect of its own row. -/
theorem exec_answers (i : Instr) (s : State) : ∃ t, exec i s = .next t ∧ Effect s i t := by
  cases i with
  | unimpl op => exact ⟨_, rfl, .none op⟩
  | ldImm | addImm | rnd | ldReg | ldVDt => exact ⟨_, rfl, .reg (by simp) _⟩
  | orReg | andReg | xorReg => exact ⟨_, rfl, .logicResult (by simp) _⟩
  | addReg | sub | shr | subn | shl => exact ⟨_, rfl, .flag (by simp) _ _ _⟩
  | jp | jpV0 => exact ⟨_, rfl, .pc rfl _⟩
  | seImm | sneImm | seReg | sneReg => exact ⟨_, rfl, .skip rfl _⟩
  | cls => exact ⟨_, rfl, .cls _⟩
  | ldI nnn => exact ⟨_, rfl, .ldI nnn⟩
  | addI x => exact ⟨_, rfl, .addI x _⟩
  | ldF x => exact ⟨_, rfl, .ldF x _⟩
  | ldDtV x => exact ⟨_, rfl, .ldDtV x _⟩
  | ldStV x => exact ⟨_, rfl, .ldStV x _⟩
  | ret =>
    cases h : s.top with
    | none => exact ⟨_, exec_ret_underflow h, .fault .ret⟩
    | some a => exact ⟨_, exec_ret_pop h, .ret a⟩
  | call nnn =>
    by_cases h : s.config.stackLimit = some s.stack.length
    · exact ⟨_, exec_call_overflow nnn h, .fault (.call nnn)⟩
    · exact ⟨_, exec_call_push nnn h, .call nnn h⟩
  | ldB x =>
    rcases Nat.lt_or_ge (s.index.toNat + 2) 4096 with h | h
    · exact ⟨_, exec_ldB x h, .ldB x h⟩
    · exact ⟨_, exec_ldB_range x h, .fault (.ldB x)⟩
  | storeRegs x =>
    rcases Nat.lt_or_ge (s.index.toNat + x.toNat) 4096 with h | h
    · exact ⟨_, exec_storeRegs x h, .storeRegs x h⟩
    · exact ⟨_, exec_storeRegs_range x h, .fault (.storeRegs x)⟩
  | loadRegs x =>
    rcases Nat.lt_or_ge (s.index.toNat + x.toNat) 4096 with h | h
    · exact ⟨_, exec_loadRegs x h, .loadRegs x⟩
    · exact ⟨_, exec_loadRegs_range x h, .fault (.loadRegs x)⟩
  | skp x =>
    rcases Nat.lt_or_ge (s.reg x).toNat 16 with h | h
    · exact ⟨_, exec_skp h, .skip rfl _⟩
    · exact ⟨_, exec_skp_range h, .fault (.skp x)⟩
  | sknp x =>
    rcases Nat.lt_or_ge (s.reg x).toNat 16 with h | h
    · exact ⟨_, exec_sknp h, .skip rfl _⟩
    · exact ⟨_, exec_sknp_range h, .fault (.sknp x)⟩
  | ldVK x =>
    cases h : s.lowestKey with
    | some k => exact ⟨_, exec_ldVK_capture x h, .capture x _⟩
    | none =>
      cases hl : s.keyReleaseLatch with
      | true => exact ⟨_, exec_ldVK_release x h hl, .release x⟩
      | false => exact ⟨_, exec_ldVK_wait x h hl, .pc rfl _⟩
  | drw x y n =>
    cases hw : s.drawWaits with
    | true => exact ⟨_, exec_drw_wait x y n hw, .pc rfl _⟩
    | false =>
      cases h : s.drawOutOfRange y n with
      | true => exact ⟨_, exec_drw_range x hw h, .fault (.drw x y n)⟩
      | false => exact ⟨_, exec_drw x hw h, .draw x y n⟩

/-- The effect of an instruction that answered a state. -/
theorem exec_effect {i : Instr} {s t : State} (h : exec i s = .next t) : Effect s i t := by
  obtain ⟨u, hu, heff⟩ := exec_answers i s
  cases h.symm.trans hu
  exact heff

/-- Settles O22: only a fault's effect changes `halted`, and it writes its record alone. -/
theorem faultingInstructionWritesItsRecordAlone : Obligations.FaultingInstructionWritesItsRecordAlone := by
  unfold Obligations.FaultingInstructionWritesItsRecordAlone
  intro i s t hrun h hfault
  cases exec_effect h
  case fault code hrow =>
    refine ⟨code, rfl, ?_⟩
    cases hrow <;> simp
  all_goals exact absurd hrun hfault

/-- Settles O31: none of these is among the fields that `exec_frame` names. -/
theorem noInstructionChangesHostOrEngineState : Obligations.NoInstructionChangesHostOrEngineState := by
  unfold Obligations.NoInstructionChangesHostOrEngineState
  intro i s t h
  rw [exec_frame h]
  exact ⟨rfl, rfl, rfl, rfl, rfl, rfl, rfl, rfl⟩

/-- Settles O33: of all effects, only those of the two stores write memory. -/
theorem onlyTwoStoresWriteMemory : Obligations.OnlyTwoStoresWriteMemory := by
  unfold Obligations.OnlyTwoStoresWriteMemory
  intro i s t h hB hS a
  cases exec_effect h
  case ldB x _ => exact absurd rfl (hB x)
  case storeRegs x _ => exact absurd rfl (hS x)
  all_goals rfl

/-- Settles O34: only the effects of `00E0` and `DXYN` reach the display, and both set `dirty`. -/
theorem onlyClearAndDrawWriteDisplay : Obligations.OnlyClearAndDrawWriteDisplay := by
  unfold Obligations.OnlyClearAndDrawWriteDisplay
  intro i s t h
  cases exec_effect h
  case cls d => exact ⟨fun hno => absurd rfl hno.1, fun _ => rfl, fun _ => rfl⟩
  case draw x y n => exact ⟨fun hno => absurd rfl (hno.2 x y n), fun _ => rfl, fun _ => rfl⟩
  all_goals exact ⟨fun _ => ⟨rfl, rfl⟩, fun hne => absurd rfl hne, id⟩

/-- A block transfer moves `I` only under `memory_increment` (R178, R179). -/
theorem State.memoryIncrement_of_indexAfterBlock_ne {s : State} {x : Nibble} (h : s.indexAfterBlock x ≠ s.index) :
    s.config.quirks.memoryIncrement = true := by
  by_contra hq
  exact h (if_neg hq)

/-- Settles O35: the one element that an effect writes names its instruction. -/
theorem writersOfStackIndexTimersAndLatches : Obligations.WritersOfStackIndexTimersAndLatches := by
  unfold Obligations.WritersOfStackIndexTimersAndLatches
  intro i s t h
  cases exec_effect h
  case storeRegs | loadRegs => simpa using State.memoryIncrement_of_indexAfterBlock_ne
  case draw x y n =>
    rw [State.draw_frame]
    simp +contextual
  all_goals simp [State.setResultFlag]

/-- A write of one register changes `VF` only when that register is `VF`. -/
theorem State.eq_VF_of_setReg_vf_ne {s : State} {x : Nibble} {b : Byte} (h : (s.setReg x b).vf ≠ s.vf) : x = 0xF := by
  by_contra hx
  exact h (State.setReg_reg_other s b (Ne.symm hx))

/-- A logic instruction changes `VF` only under `vf_reset` or as its destination (R134-R136). -/
theorem State.vfReset_or_eq_VF_of_setLogicResult_vf_ne {s : State} {x : Nibble} {b : Byte}
    (h : (s.setLogicResult x b).vf ≠ s.vf) : s.config.quirks.vfReset = true ∨ x = 0xF := by
  by_contra hno
  simp only [not_or] at hno
  rw [State.vf, State.setLogicResult_reg, if_neg (fun hq => hno.1 hq.1), if_neg (Ne.symm hno.2)] at h
  exact h rfl

/-- A block load writes `VF` only when it loads all registers (R179). -/
theorem State.eq_VF_of_loadBlock_vf_ne {s : State} {x : Nibble} (h : (s.setRegs (s.loadBlock x)).vf ≠ s.vf) : x = 0xF := by
  by_contra hx
  have hlt : ¬ (0xF : Nibble).toNat ≤ x.toNat := fun hle => hx (BitVec.eq_of_toNat_eq (by
    have := x.isLt
    simp only [BitVec.reduceToNat] at *
    omega))
  rw [State.vf, State.setRegs_loadBlock_reg, if_neg hlt] at h
  exact h rfl

/-- Settles O36: an effect that writes registers writes `VF` as its flag, or names it as its destination. -/
theorem writersOfVF : Obligations.WritersOfVF := by
  unfold Obligations.WritersOfVF
  intro i s t h hne
  cases exec_effect h
  case reg x b hi =>
    cases State.eq_VF_of_setReg_vf_ne hne
    rcases hi with hi | ⟨y, rfl⟩ | rfl
    · exact .inr (.inr (.inr (.inl hi)))
    · simp
    · simp
  case logic x b hi =>
    rcases State.vfReset_or_eq_VF_of_setLogicResult_vf_ne hne with hq | rfl
    · exact .inl ⟨hq, x, hi⟩
    · obtain ⟨y, hi⟩ := hi
      exact .inr (.inr (.inr (.inr (.inl ⟨y, .inr hi⟩))))
  case flag x b f hi => exact .inr (.inl hi)
  case capture x b =>
    cases State.eq_VF_of_setReg_vf_ne hne
    simp
  case loadRegs x =>
    cases State.eq_VF_of_loadBlock_vf_ne hne
    simp
  case draw x y n => exact .inr (.inr (.inl ⟨x, y, n, rfl⟩))
  all_goals exact absurd rfl hne

/-- A state seen by another engine, with another block cache, at another `pc` (44 R227). -/
def State.view (e : Engine) (c : List (Nat × List Instr)) (a : Addr) (s : State) : State :=
  ((withEngine s e).setBlockCache c).setPc a

section
variable (e : Engine) (c : List (Nat × List Instr)) (a : Addr) (s : State)

@[simp] theorem State.view_halted : (s.view e c a).halted = s.halted := rfl

theorem State.view_eq_setPc {e : Engine} {c : List (Nat × List Instr)} {s : State} (he : s.config.engine = e)
    (hc : s.blockCache = c) (a : Addr) : s.view e c a = s.setPc a := by
  subst he hc
  rfl

theorem State.setLogicResult_view (x : Nibble) (b : Byte) :
    (s.view e c a).setLogicResult x b = (s.setLogicResult x b).view e c a := by
  show (if s.config.quirks.vfReset = true then _ else _) = State.view e c a (if s.config.quirks.vfReset = true then _ else _)
  split <;> rfl

theorem State.skipIf_view (b : Bool) :
    (s.view e c s.pc).skipIf b = (s.skipIf b).view e c (s.skipIf b).pc := by
  cases b <;> rfl

end

/-- An instruction that is no terminator keeps `pc` (44 R222, D19). -/
theorem exec_pc_of_not_terminator {i : Instr} (hi : isTerminator i = false) {s t : State} (h : exec i s = .next t) :
    t.pc = s.pc := by
  cases exec_effect h
  case pc hterm => cases hi.symm.trans hterm
  case ret | call | draw | capture | storeRegs => cases hi
  all_goals rfl

/-- An instruction that is no terminator has the same effect in any view, and keeps the view's `pc` (44 R222, D19). -/
theorem exec_view_of_not_terminator {i : Instr} (hi : isTerminator i = false) {s t : State} (h : exec i s = .next t)
    (e : Engine) (c : List (Nat × List Instr)) (a : Addr) : exec i (s.view e c a) = .next (t.view e c a) := by
  suffices hboth : ∃ u, exec i s = .next u ∧ exec i (s.view e c a) = .next (u.view e c a) by
    obtain ⟨u, hu, hview⟩ := hboth
    cases hu.symm.trans h
    exact hview
  clear h
  cases i with
  | cls | ldImm | addImm | ldReg | addReg | sub | shr | subn | shl | ldI | rnd | ldVDt | ldDtV | ldStV | addI | ldF
  | unimpl => exact ⟨_, rfl, rfl⟩
  | orReg | andReg | xorReg => exact ⟨_, rfl, congrArg Host.Outcome.next (State.setLogicResult_view e c a s _ _)⟩
  | ldB x =>
    rcases Nat.lt_or_ge (s.index.toNat + 2) 4096 with hr | hr
    · exact ⟨_, exec_ldB x hr, exec_ldB (s := s.view e c a) x hr⟩
    · exact ⟨_, exec_ldB_range x hr, exec_ldB_range (s := s.view e c a) x hr⟩
  | loadRegs x =>
    rcases Nat.lt_or_ge (s.index.toNat + x.toNat) 4096 with hr | hr
    · exact ⟨_, exec_loadRegs x hr, exec_loadRegs (s := s.view e c a) x hr⟩
    · exact ⟨_, exec_loadRegs_range x hr, exec_loadRegs_range (s := s.view e c a) x hr⟩
  | _ => cases hi

/-- Every instruction has the same effect in the view of another engine at the same `pc`. -/
theorem exec_view {i : Instr} {s t : State} (h : exec i s = .next t) (e : Engine) (c : List (Nat × List Instr)) :
    exec i (s.view e c s.pc) = .next (t.view e c t.pc) := by
  suffices hboth : ∃ u, exec i s = .next u ∧ exec i (s.view e c s.pc) = .next (u.view e c u.pc) by
    obtain ⟨u, hu, hview⟩ := hboth
    cases hu.symm.trans h
    exact hview
  cases i with
  | jp | jpV0 => exact ⟨_, rfl, rfl⟩
  | seImm | sneImm | seReg | sneReg => exact ⟨_, rfl, congrArg Host.Outcome.next (State.skipIf_view e c s _)⟩
  | ret =>
    cases hs : s.top with
    | none => exact ⟨_, exec_ret_underflow hs, exec_ret_underflow (s := s.view e c s.pc) hs⟩
    | some a => exact ⟨_, exec_ret_pop hs, exec_ret_pop (s := s.view e c s.pc) hs⟩
  | call nnn =>
    by_cases hs : s.config.stackLimit = some s.stack.length
    · exact ⟨_, exec_call_overflow nnn hs, exec_call_overflow (s := s.view e c s.pc) nnn hs⟩
    · exact ⟨_, exec_call_push nnn hs, exec_call_push (s := s.view e c s.pc) nnn hs⟩
  | storeRegs x =>
    rcases Nat.lt_or_ge (s.index.toNat + x.toNat) 4096 with hr | hr
    · exact ⟨_, exec_storeRegs x hr, exec_storeRegs (s := s.view e c s.pc) x hr⟩
    · exact ⟨_, exec_storeRegs_range x hr, exec_storeRegs_range (s := s.view e c s.pc) x hr⟩
  | skp x =>
    rcases Nat.lt_or_ge (s.reg x).toNat 16 with hr | hr
    · exact ⟨_, exec_skp hr,
        (exec_skp (s := s.view e c s.pc) hr).trans (congrArg Host.Outcome.next (State.skipIf_view e c s _))⟩
    · exact ⟨_, exec_skp_range hr, exec_skp_range (s := s.view e c s.pc) hr⟩
  | sknp x =>
    rcases Nat.lt_or_ge (s.reg x).toNat 16 with hr | hr
    · exact ⟨_, exec_sknp hr,
        (exec_sknp (s := s.view e c s.pc) hr).trans (congrArg Host.Outcome.next (State.skipIf_view e c s _))⟩
    · exact ⟨_, exec_sknp_range hr, exec_sknp_range (s := s.view e c s.pc) hr⟩
  | ldVK x =>
    cases hk : s.lowestKey with
    | some k => exact ⟨_, exec_ldVK_capture x hk, exec_ldVK_capture (s := s.view e c s.pc) x hk⟩
    | none =>
      cases hl : s.keyReleaseLatch with
      | true => exact ⟨_, exec_ldVK_release x hk hl, exec_ldVK_release (s := s.view e c s.pc) x hk hl⟩
      | false => exact ⟨_, exec_ldVK_wait x hk hl, exec_ldVK_wait (s := s.view e c s.pc) x hk hl⟩
  | drw x y n =>
    cases hw : s.drawWaits with
    | true => exact ⟨_, exec_drw_wait x y n hw, exec_drw_wait (s := s.view e c s.pc) x y n hw⟩
    | false =>
      cases hr : s.drawOutOfRange y n with
      | true => exact ⟨_, exec_drw_range x hw hr, exec_drw_range (s := s.view e c s.pc) x hw hr⟩
      | false => exact ⟨_, exec_drw x hw hr, exec_drw (s := s.view e c s.pc) x hw hr⟩
  | _ =>
    refine ⟨t, h, ?_⟩
    rw [exec_pc_of_not_terminator rfl h]
    exact exec_view_of_not_terminator rfl h e c s.pc

/-- Settles O28: its effect writes no `pc`, and it has the same effect in the view at another `pc`. -/
theorem onlyTerminatorsUsePc : Obligations.OnlyTerminatorsUsePc := by
  unfold Obligations.OnlyTerminatorsUsePc
  intro i s t a hi h
  have hview := exec_view_of_not_terminator hi h s.config.engine s.blockCache a
  obtain ⟨hc, _, _, hb, _⟩ := noInstructionChangesHostOrEngineState i s t h
  rw [State.view_eq_setPc rfl rfl, State.view_eq_setPc (congrArg Config.engine hc) hb] at hview
  exact ⟨exec_pc_of_not_terminator hi h, hview⟩

end Sys2Proof.Machine
end

section
/-! The step of each engine as an equation, and what a step of any engine keeps (44_dispatch_engines.md). -/

namespace Sys2Proof.Machine

open Sys2Proof.Safety

theorem step_of_faulted {s : State} {code : FaultCode} {ia : Addr} (h : s.halted = .faulted code ia) :
    step s = .next s := by
  simp only [step, tick, h]

theorem step_direct {s : State} (hr : s.halted = .running) (he : s.config.engine = .direct) : step s = tickDirect s := by
  simp only [step, tick, hr, he]

theorem step_cached {s : State} (hr : s.halted = .running) (he : s.config.engine = .decodeCache) :
    step s = tickCached s := by
  simp only [step, tick, hr, he]

theorem step_block {s : State} (hr : s.halted = .running) (he : s.config.engine = .basicBlock) :
    step s = tickBlock s := by
  simp only [step, tick, hr, he]

/-- R212: the fetch of `direct` reads the two bytes at `pc`. -/
theorem tickDirect_of_fetch {s : State} (h : s.pc.toNat + 1 < 4096) :
    tickDirect s = evalInstr (decode (opcodeAt s.mem s.pc.toNat)) s.pc (s.setPc (s.pc + 2)) := by
  have hf : s.fetchDirect = some (opcodeAt s.mem s.pc.toNat) := if_neg (Nat.not_le.mpr h)
  simp only [tickDirect, hf]

theorem tickDirect_at_top {s : State} (h : s.pc = 0xFFF) : tickDirect s = .next (s.fetchFault .fetchRange) := by
  simp [tickDirect, State.fetchDirect, memSize, h]

/-- R216: a slot's descriptor is the cache's element of the slot's number. -/
theorem fetchCached_eq_some_iff (s : State) (i : Instr) :
    s.fetchCached = some i ↔ ∃ k, s.pc.toNat = s.config.startAddr.toNat + 2 * k ∧ s.decodeCache[k]? = some i := by
  unfold State.fetchCached
  cases hk : slotIndex s.config s.pc.toNat with
  | none =>
    have hno := (slotIndex_eq_none_iff _ _).mp hk
    simp only [reduceCtorEq, false_iff]
    rintro ⟨k, h, _⟩
    exact hno k h
  | some k =>
    have hpc := (slotIndex_eq_some_iff _ _ _).mp hk
    constructor
    · exact fun h => ⟨k, hpc, h⟩
    · rintro ⟨j, hj, h⟩
      rwa [show k = j by omega]

theorem tickCached_of_fetch {s : State} {i : Instr} (h : s.fetchCached = some i) :
    tickCached s = evalInstr i s.pc (s.setPc (s.pc + 2)) := by
  simp only [tickCached, h]

theorem tickCached_of_no_slot {s : State} (h : s.fetchCached = none) : tickCached s = .next (s.fetchFault .cacheMiss) := by
  simp only [tickCached, h]

theorem tickBlock_of_fetch {s : State} {b : List Instr} {c : List (Nat × List Instr)} (h : s.fetchBlock = some (b, c)) :
    tickBlock s = runBlock b s.pc ((s.setBlockCache c).setPc (blockEnd s.pc b.length)) := by
  simp only [tickBlock, h]

theorem tickBlock_of_no_block {s : State} (h : s.fetchBlock = none) : tickBlock s = .next (s.fetchFault .cacheMiss) := by
  simp only [tickBlock, h]

/-- An evaluation answers a state. -/
theorem evalInstr_answers (i : Instr) (ia : Addr) (s : State) : ∃ t, evalInstr i ia s = .next t := by
  obtain ⟨t, ht, _⟩ := exec_answers i (s.beginEval ia)
  exact ⟨_, evalInstr_of_exec ht⟩

/-- A block's run goes on, after the cadence step, while the core runs (R223). -/
theorem runBlock_cons {i : Instr} (is : List Instr) {ia : Addr} {s t : State} (h : exec i (s.beginEval ia) = .next t) :
    runBlock (i :: is) ia s = if t.halted = .running then runBlock is (ia + 2) t.cadenceStep else .next t := by
  rw [runBlock, evalInstr_of_exec h]
  simp only [State.running_iff, State.endEval_halted]
  rcases State.endEval_cases t with ⟨hr, he⟩ | ⟨hr, he⟩
  · rw [if_pos hr, if_pos hr, he]
  · rw [if_neg hr, if_neg hr, he]

/-- A block's run answers a state. -/
theorem runBlock_answers (is : List Instr) (ia : Addr) (s : State) : ∃ t, runBlock is ia s = .next t := by
  induction is generalizing ia s with
  | nil => exact ⟨s, rfl⟩
  | cons i is ih =>
    obtain ⟨u, hu, _⟩ := exec_answers i (s.beginEval ia)
    rw [runBlock_cons is hu]
    split
    · exact ih _ _
    · exact ⟨u, rfl⟩

/-- A step answers a state. -/
theorem step_answers (s : State) : ∃ t, step s = .next t := by
  cases hh : s.halted with
  | faulted code ia => exact ⟨s, step_of_faulted hh⟩
  | running =>
    cases he : s.config.engine with
    | direct =>
      rw [step_direct hh he]
      unfold tickDirect
      split
      · exact ⟨_, rfl⟩
      · exact evalInstr_answers ..
    | decodeCache =>
      rw [step_cached hh he]
      unfold tickCached
      split
      · exact ⟨_, rfl⟩
      · exact evalInstr_answers ..
    | basicBlock =>
      rw [step_block hh he]
      unfold tickBlock
      split
      · exact ⟨_, rfl⟩
      · exact runBlock_answers ..

/-- Settles O21: the faults are recorded in the state, so every branch of a rule and of a tick answers one. -/
theorem everyInstructionAndTickAnswersNext : Obligations.EveryInstructionAndTickAnswersNext := by
  unfold Obligations.EveryInstructionAndTickAnswersNext
  refine ⟨fun i s => ?_, step_answers⟩
  obtain ⟨t, ht, _⟩ := exec_answers i s
  exact ⟨t, ht⟩

/-- The opcode at an address is the number of its two bytes, the lower address on top (20_memory.md R55). -/
theorem opcodeAt_eq (m : Memory) (a : Nat) :
    opcodeAt m a = BitVec.ofNat 16 (256 * (m.read a).toNat + (m.read (a + 1)).toNat) := by
  apply BitVec.eq_of_toNat_eq
  have h := Nat.shiftLeft_add_eq_or_of_lt (m.read (a + 1)).isLt (m.read a).toNat
  have h1 := (m.read a).isLt
  have h2 := (m.read (a + 1)).isLt
  rw [opcodeAt, opcodeOfBytes, BitVec.toNat_append, ← h, BitVec.toNat_ofNat, Nat.shiftLeft_eq]
  omega

/-- The end of an evaluation, by whether the core still runs (R214, R300). -/
theorem State.endEval_eq (t : State) : t.endEval = if t.halted = .running then t.cadenceStep else t := by
  rcases State.endEval_cases t with ⟨hr, he⟩ | ⟨hr, he⟩
  · rw [if_pos hr, he]
  · rw [if_neg hr, he]

/-- Settles O16: the tick is the evaluation of the fetched opcode, here written out. -/
theorem directStepRunsDecodedInstruction : Obligations.DirectStepRunsDecodedInstruction := by
  unfold Obligations.DirectStepRunsDecodedInstruction
  rintro s i hr he hpc rfl
  rw [← opcodeAt_eq, step_direct hr he, tickDirect_of_fetch hpc]
  obtain ⟨t, ht, _⟩ := exec_answers (decode (opcodeAt s.mem s.pc.toNat)) ((s.setPc (s.pc + 2)).beginEval s.pc)
  rw [evalInstr_of_exec ht, State.endEval_eq,
    show exec _ { s with pc := s.pc + 2, ia := s.pc, rnd := Config.rndByte s.evals, evals := s.evals + 1 } = _ from ht]

/-- Settles O17: the tick is the evaluation of the slot's descriptor, here written out. -/
theorem cachedStepRunsCachedInstruction : Obligations.CachedStepRunsCachedInstruction := by
  unfold Obligations.CachedStepRunsCachedInstruction
  intro s i k hr he hpc hi
  rw [step_cached hr he, tickCached_of_fetch ((fetchCached_eq_some_iff s i).mpr ⟨k, hpc, hi⟩)]
  obtain ⟨t, ht, _⟩ := exec_answers i ((s.setPc (s.pc + 2)).beginEval s.pc)
  rw [evalInstr_of_exec ht, State.endEval_eq,
    show exec _ { s with pc := s.pc + 2, ia := s.pc, rnd := Config.rndByte s.evals, evals := s.evals + 1 } = _ from ht]


theorem fetchCached_eq_none_iff (s : State) :
    s.fetchCached = none ↔ ∀ k, s.pc.toNat = s.config.startAddr.toNat + 2 * k → s.decodeCache.length ≤ k := by
  rw [← not_iff_not, ← Ne, Option.ne_none_iff_exists']
  simp only [fetchCached_eq_some_iff, not_forall, not_le, exists_prop]
  constructor
  · rintro ⟨i, k, hk, hi⟩
    exact ⟨k, hk, (List.getElem?_eq_some_iff.mp hi).1⟩
  · rintro ⟨k, hk, hl⟩
    exact ⟨s.decodeCache[k], k, hk, List.getElem?_eq_getElem hl⟩

/-- Settles O18: the fetch finds the block or builds and stores it; each evaluation is written out. -/
theorem blockStepRunsTheBlock : Obligations.BlockStepRunsTheBlock := by
  unfold Obligations.BlockStepRunsTheBlock
  refine ⟨fun s b c hr he hc => ?_, fun _ _ => rfl, fun i is ia s => ?_, fun c e a b h => ?_⟩
  · have hf : s.fetchBlock = some (b, c) := by
      rcases hc with ⟨hb, rfl⟩ | ⟨hnone, hb, rfl⟩
      · simp only [State.fetchBlock, hb]
      · simp only [State.fetchBlock, hnone, hb]
    rw [step_block hr he, tickBlock_of_fetch hf]
    rfl
  · obtain ⟨t, ht, _⟩ := exec_answers i (s.beginEval ia)
    rw [runBlock_cons is ht,
      show exec i { s with ia := ia, rnd := Config.rndByte s.evals, evals := s.evals + 1 } = _ from ht]
  · exact cachedBlock_storeBlock h e b a

/-- R220: a block is built exactly at a slot. -/
theorem State.buildBlock_eq_none_iff (s : State) (e : Nat) :
    s.buildBlock e = none ↔ ∀ k, e = s.config.startAddr.toNat + 2 * k → s.decodeCache.length ≤ k := by
  rw [← not_iff_not, ← Ne, Option.ne_none_iff_exists']
  simp only [State.buildBlock_eq_some_iff, not_forall, not_le, exists_prop]
  constructor
  · rintro ⟨_, k, hk, rfl, hne⟩
    refine ⟨k, hk, ?_⟩
    by_contra hl
    exact hne ((takeBlock_eq_nil_iff _).mpr (List.drop_eq_nil_of_le (by omega)))
  · rintro ⟨k, hk, hl⟩
    refine ⟨_, k, hk, rfl, fun hnil => ?_⟩
    have := List.drop_eq_nil_iff.mp ((takeBlock_eq_nil_iff _).mp hnil)
    omega

/-- Settles O19: each engine's fetch answers nothing there. -/
theorem failedFetchRecordsItsFault : Obligations.FailedFetchRecordsItsFault := by
  unfold Obligations.FailedFetchRecordsItsFault
  refine fun s hr => ⟨fun he hpc => ?_, fun he hno => ?_, fun he hnone hno => ?_⟩
  · rw [step_direct hr he, tickDirect_at_top hpc]
    rfl
  · rw [step_cached hr he, tickCached_of_no_slot ((fetchCached_eq_none_iff s).mpr hno)]
    rfl
  · have hf : s.fetchBlock = none := by
      simp only [State.fetchBlock, hnone, (s.buildBlock_eq_none_iff _).mpr hno]
    rw [step_block hr he, tickBlock_of_no_block hf]
    rfl

/-- Settles O20: the tick looks at `halted` first. -/
theorem faultedCoreChangesNothing : Obligations.FaultedCoreChangesNothing := by
  unfold Obligations.FaultedCoreChangesNothing
  exact fun s code ia h => step_of_faulted h

/-- Settles O23: the record is the fetch's or the instruction's, and `endEval` adds no cadence step to it. -/
theorem faultingTickTakesNoCadenceStep : Obligations.FaultingTickTakesNoCadenceStep := by
  unfold Obligations.FaultingTickTakesNoCadenceStep
  intro s t hr he h hfault
  rcases step_cases h with ⟨hne, _⟩ | ⟨_, code, rfl⟩ | ⟨_, _, i, hi⟩ | ⟨_, hb, _⟩
  · exact absurd hr hne
  · exact ⟨rfl, code, rfl⟩
  · obtain ⟨u, hu, rfl⟩ := evalInstr_next hi
    rcases State.endEval_cases u with ⟨hu', _⟩ | ⟨hu', hend⟩
    · exact absurd ((State.endEval_halted u).trans hu') hfault
    · obtain ⟨code, rfl, _⟩ := faultingInstructionWritesItsRecordAlone i
        ((s.setPc (s.pc + 2)).beginEval s.pc) u hr hu hu'
      rw [hend]
      exact ⟨rfl, code, rfl⟩
  · exact absurd hb he

/-- A timer's decrement floors at zero (60_exceptions.md R321). -/
theorem countDown_toNat (b : Byte) : (countDown b).toNat = b.toNat - 1 := by
  unfold countDown
  split
  · subst_vars
    rfl
  · bv_omega

/-- Settles O24: the two cases of `State.cadenceStep_cases`. -/
theorem cadenceStepAndFrameBoundary : Obligations.CadenceStepAndFrameBoundary := by
  unfold Obligations.CadenceStepAndFrameBoundary
  intro s
  rcases State.cadenceStep_cases s with ⟨hc, he⟩ | ⟨hc, he⟩
  · rw [he]
    exact ⟨fun _ => ⟨rfl, countDown_toNat _, countDown_toNat _, rfl, rfl⟩, fun hne => absurd hc hne⟩
  · exact ⟨fun heq => absurd heq hc, fun _ => he⟩

/-- Inside a frame, cadence steps advance the counter alone. -/
theorem State.cadenceStep_iterate_inside {s : State} {j : Nat} (h : s.cadence + j < s.config.timerRatio) :
    State.cadenceStep^[j] s = { s with cadence := s.cadence + j } := by
  induction j with
  | zero => rfl
  | succ j ih =>
    rw [Function.iterate_succ_apply', ih (by omega)]
    refine (cadenceStepAndFrameBoundary _).2 (?_ : s.cadence + j + 1 ≠ s.config.timerRatio)
    omega

/-- A whole frame of cadence steps is one frame boundary (60_exceptions.md R320). -/
theorem State.cadenceStep_iterate_frame {s : State} (h0 : s.cadence = 0) (hR : 1 ≤ s.config.timerRatio) :
    State.cadenceStep^[s.config.timerRatio] s =
      { s with delay := countDown s.delay, sound := countDown s.sound, displayWaitLatch := false } := by
  obtain ⟨n, hn⟩ := Nat.exists_eq_add_of_le' hR
  rw [hn, Function.iterate_succ_apply', State.cadenceStep_iterate_inside (by omega)]
  have hlast : s.cadence + n + 1 = s.config.timerRatio := by omega
  rcases State.cadenceStep_cases { s with cadence := s.cadence + n } with ⟨_, he⟩ | ⟨hne, _⟩
  · rw [he, ← h0]
  · exact absurd hlast hne

/-- Settles O25, by induction on the number of frames. -/
theorem timersCountDownOncePerFrame : Obligations.TimersCountDownOncePerFrame := by
  unfold Obligations.TimersCountDownOncePerFrame
  intro s k h0 hR
  induction k generalizing s with
  | zero => simp [h0]
  | succ k ih =>
    rw [Nat.succ_mul, Function.iterate_add_apply, State.cadenceStep_iterate_frame h0 hR]
    obtain ⟨hc, hd, hs⟩ := ih { s with delay := countDown s.delay, sound := countDown s.sound, displayWaitLatch := false }
      h0 hR
    simp only [countDown_toNat] at hd hs
    exact ⟨hc, by omega, by omega⟩

@[simp] theorem State.cadenceStep_pc (s : State) : s.cadenceStep.pc = s.pc := by
  rw [State.cadenceStep_frame]

@[simp] theorem State.cadenceStep_blockCache (s : State) : s.cadenceStep.blockCache = s.blockCache := by
  rw [State.cadenceStep_frame]

/-- The end of an evaluation leaves all but the timers, the display-wait latch and the counter as they were. -/
theorem State.endEval_frame (s : State) :
    s.endEval =
      { s with
        cadence := s.endEval.cadence, delay := s.endEval.delay, sound := s.endEval.sound
        displayWaitLatch := s.endEval.displayWaitLatch } := by
  rcases State.endEval_cases s with ⟨_, h⟩ | ⟨_, h⟩ <;> rw [h]
  exact State.cadenceStep_frame s

@[simp] theorem State.endEval_pc (s : State) : s.endEval.pc = s.pc := by
  rw [State.endEval_frame]

theorem State.endEval_view (e : Engine) (c : List (Nat × List Instr)) (a : Addr) (s : State) :
    (s.view e c a).endEval = s.endEval.view e c a := by
  rw [State.endEval_eq, State.endEval_eq, State.view_halted]
  split
  · rcases State.cadenceStep_cases s with ⟨hc, he⟩ | ⟨hc, he⟩
    · rw [he]
      exact if_pos hc
    · rw [he]
      exact if_neg hc
  · rfl

/-- An evaluation has the same effect in the view of another engine at the same `pc`. -/
theorem evalInstr_view {i : Instr} {ia : Addr} {s t : State} (h : evalInstr i ia s = .next t) (e : Engine)
    (c : List (Nat × List Instr)) : evalInstr i ia (s.view e c s.pc) = .next (t.view e c t.pc) := by
  obtain ⟨u, hu, rfl⟩ := evalInstr_next h
  rw [State.endEval_pc, ← State.endEval_view]
  exact evalInstr_of_exec (exec_view hu e c)

/-- The evaluation of an instruction that is no terminator has the same effect in any view, and keeps the view's `pc`. -/
theorem evalInstr_view_of_not_terminator {i : Instr} (hi : isTerminator i = false) {ia : Addr} {s t : State}
    (h : evalInstr i ia s = .next t) (e : Engine) (c : List (Nat × List Instr)) (a : Addr) :
    evalInstr i ia (s.view e c a) = .next (t.view e c a) := by
  obtain ⟨u, hu, rfl⟩ := evalInstr_next h
  rw [← State.endEval_view]
  exact evalInstr_of_exec (exec_view_of_not_terminator hi hu e c a)

/-- Settles O26: both ticks evaluate one instruction, each in its own engine's view. -/
theorem freshCachedTickEqualsDirectTick : Obligations.FreshCachedTickEqualsDirectTick := by
  unfold Obligations.FreshCachedTickEqualsDirectTick
  intro s k hr he hpc htop hi
  obtain ⟨t, ht⟩ := evalInstr_answers (decode (opcodeAt s.mem s.pc.toNat)) s.pc (s.setPc (s.pc + 2))
  refine ⟨t, ?_, ?_⟩
  · rw [step_cached hr he, tickCached_of_fetch ((fetchCached_eq_some_iff s _).mpr ⟨k, hpc, hi⟩), ht]
  · rw [step_direct (s := withEngine s .direct) hr rfl, tickDirect_of_fetch (s := withEngine s .direct) htop]
    have hblocks : t.blockCache = s.blockCache := (sameCaches_evalInstr ht).2
    have ht' : t.view .direct s.blockCache t.pc = withEngine t .direct := by
      rw [← hblocks]
      rfl
    rw [← ht']
    exact evalInstr_view ht .direct s.blockCache

/-- A relation that is reflexive and transitive holds from a state to its step when it holds over each part of a tick: a
failed fetch, a block fetch, a move of `pc`, an evaluation. -/
theorem step_induction {R : State → State → Prop} (refl : ∀ s, R s s) (trans : ∀ {s u t}, R s u → R u t → R s t)
    (fault : ∀ s code, R s (s.fetchFault code))
    (fetch : ∀ {s b c}, s.fetchBlock = some (b, c) → R s (s.setBlockCache c)) (pc : ∀ s a, R s (s.setPc a))
    (eval : ∀ {i ia s u}, evalInstr i ia s = .next u → R s u) {s t : State} (h : step s = .next t) : R s t := by
  rcases step_cases h with ⟨_, rfl⟩ | ⟨_, code, rfl⟩ | ⟨_, _, i, hi⟩ | ⟨_, _, b, c, hf, hb⟩
  · exact refl _
  · exact fault s code
  · exact trans (pc s _) (eval hi)
  · exact trans (fetch hf) (trans (pc _ _) (runBlock_induction refl trans eval hb))

/-- The parameters, the keys and the decode cache are as before, and `dirty` is not cleared. -/
def HostStateKept (s t : State) : Prop :=
  t.config = s.config ∧ t.keys = s.keys ∧ t.decodeCache = s.decodeCache ∧ (s.dirty = true → t.dirty = true)

theorem HostStateKept.refl (s : State) : HostStateKept s s := ⟨rfl, rfl, rfl, id⟩

theorem HostStateKept.trans {s u t : State} (h : HostStateKept s u) (h' : HostStateKept u t) : HostStateKept s t := by
  obtain ⟨hc, hk, hd, hdirty⟩ := h
  obtain ⟨hc', hk', hd', hdirty'⟩ := h'
  exact ⟨hc'.trans hc, hk'.trans hk, hd'.trans hd, hdirty' ∘ hdirty⟩

theorem hostStateKept_endEval (s : State) : HostStateKept s s.endEval := by
  rw [State.endEval_frame]
  exact ⟨rfl, rfl, rfl, id⟩

theorem hostStateKept_evalInstr {i : Instr} {ia : Addr} {s t : State} (h : evalInstr i ia s = .next t) :
    HostStateKept s t := by
  obtain ⟨u, hu, rfl⟩ := evalInstr_next h
  obtain ⟨hc, hk, hd, _⟩ := noInstructionChangesHostOrEngineState i _ u hu
  obtain ⟨_, _, hdirty⟩ := onlyClearAndDrawWriteDisplay i _ u hu
  have hexec : HostStateKept s u := ⟨hc, hk, hd, hdirty⟩
  exact hexec.trans (hostStateKept_endEval u)

/-- Settles O32: `HostStateKept` holds over every part of a tick. -/
theorem stepKeepsParametersKeysAndDirty : Obligations.StepKeepsParametersKeysAndDirty := by
  unfold Obligations.StepKeepsParametersKeysAndDirty
  intro s t h
  exact step_induction (R := HostStateKept) HostStateKept.refl HostStateKept.trans (fun _ _ => ⟨rfl, rfl, rfl, id⟩)
    (fun _ => ⟨rfl, rfl, rfl, id⟩) (fun _ _ => ⟨rfl, rfl, rfl, id⟩) hostStateKept_evalInstr h

/-- R220's scan: no terminator before a block's last instruction, which is one unless the descriptors end with it. -/
theorem takeBlock_spec {l : List Instr} (hl : l ≠ []) : ∃ pre last rest, takeBlock l = pre ++ [last] ∧
    l = pre ++ [last] ++ rest ∧ (∀ i ∈ pre, isTerminator i = false) ∧ (isTerminator last = true ∨ rest = []) := by
  induction l with
  | nil => exact absurd rfl hl
  | cons i is ih =>
    by_cases hi : isTerminator i = true
    · exact ⟨[], i, is, by simp [takeBlock, hi], rfl, by simp, .inl hi⟩
    · rw [takeBlock, if_neg hi]
      by_cases his : is = []
      · exact ⟨[], i, [], by simp [his, takeBlock], by simp [his], by simp, .inr rfl⟩
      · obtain ⟨pre, last, rest, hb, hsplit, hpre, hlast⟩ := ih his
        refine ⟨i :: pre, last, rest, by simp [hb], by simpa using hsplit, ?_, hlast⟩
        simpa [hi] using hpre

/-- Settles O29: `takeBlock_spec` at the slot's descriptors. -/
theorem blockRunsToFirstTerminator : Obligations.BlockRunsToFirstTerminator := by
  unfold Obligations.BlockRunsToFirstTerminator
  refine fun s e => ⟨s.buildBlock_eq_none_iff e, fun b hb => ?_⟩
  obtain ⟨k, hk, rfl, hne⟩ := (s.buildBlock_eq_some_iff e b).mp hb
  obtain ⟨pre, last, rest, hb, hsplit, hpre, hlast⟩ := takeBlock_spec (mt (takeBlock_eq_nil_iff _).mpr hne)
  exact ⟨k, pre, last, rest, hk, hb, hsplit, hpre, hlast⟩

/-- A terminator's slot makes a block of one instruction. -/
theorem State.buildBlock_of_terminator {s : State} {i : Instr} (hi : isTerminator i = true) {e k : Nat}
    (he : e = s.config.startAddr.toNat + 2 * k) (hk : s.decodeCache[k]? = some i) : s.buildBlock e = some [i] := by
  obtain ⟨hlt, hget⟩ := List.getElem?_eq_some_iff.mp hk
  refine (s.buildBlock_eq_some_iff e [i]).mpr ⟨k, he, ?_, List.cons_ne_nil _ _⟩
  rw [List.drop_eq_getElem_cons hlt, hget, takeBlock, if_pos hi]

/-- A stored block is the one cached for its address, in any cache. -/
theorem cachedBlock_storeBlock_self (c : List (Nat × List Instr)) (e : Nat) (b : List Instr) :
    cachedBlock (storeBlock c e b) e = some b := by
  induction c with
  | nil => simp [storeBlock, cachedBlock]
  | cons p c ih =>
    obtain ⟨x, y⟩ := p
    unfold storeBlock
    split
    · simp [cachedBlock]
    · split
      · simp [cachedBlock]
      · simp [cachedBlock, *]

/-- A jump alone runs as a block of one instruction, with one cadence step. -/
theorem runBlock_jp (nnn ia : Addr) {s : State} (hr : s.halted = .running) :
    runBlock [.jp nnn] ia s = .next ((s.beginEval ia).setPc nnn).cadenceStep := by
  rw [runBlock_cons [] (rfl : exec (.jp nnn) (s.beginEval ia) = .next ((s.beginEval ia).setPc nnn))]
  exact if_pos hr

/-- Settles O30: the terminator alone makes the block, which runs as one jump. -/
theorem jumpToSelfIsAOneInstructionBlock : Obligations.JumpToSelfIsAOneInstructionBlock := by
  unfold Obligations.JumpToSelfIsAOneInstructionBlock
  intro s k hr he hpc hk
  have hbuild : s.buildBlock s.pc.toNat = some [.jp s.pc] := State.buildBlock_of_terminator rfl hpc hk
  refine ⟨hbuild, fun hnone => ?_, fun hcached => ?_⟩
  · have hstep := blockStepRunsTheBlock.1 s _ _ hr he (.inr ⟨hnone, hbuild, rfl⟩)
    rw [runBlock_jp _ _ (by exact hr)] at hstep
    refine ⟨_, hstep, ?_, State.cadenceStep_pc _, ?_⟩ <;> rw [State.cadenceStep_blockCache]
    · exact cachedBlock_storeBlock_self ..
    · rfl
  · have hstep := blockStepRunsTheBlock.1 s _ _ hr he (.inl ⟨hcached, rfl⟩)
    rw [hstep, runBlock_jp _ _ (by exact hr)]
    rfl

end Sys2Proof.Machine
end

section
/-! Construction (70_reset_and_hazards.md), and the machine invariant: it holds of every construction, and every step and
every host move keeps it. -/

namespace Sys2Proof.Safety

open Sys2Proof.Machine

/-- The checks of R403 in their two forms. -/
theorem validConfig_iff_constructible (c : Config) : validConfig c = true ↔ Constructible c := by
  have hstart := c.startAddr.isLt
  rw [validConfig_iff]
  constructor
  · rintro ⟨heven, hrom, hfont, hapart, hratio, hlimit⟩
    refine ⟨heven, by omega, hfont, fun a h1 h2 h3 => ?_, hratio, fun l hl => ?_⟩
    · rcases hapart with h | h | h
      · simp only [h, List.length_nil]
        omega
      · omega
      · omega
    · rcases Nat.eq_zero_or_pos l with rfl | hpos
      · exact absurd hl hlimit
      · exact hpos
  · rintro ⟨heven, hrom, hfont, hapart, hratio, hlimit⟩
    refine ⟨heven, by omega, hfont, ?_, hratio, fun h0 => absurd (hlimit 0 h0) (by simp)⟩
    have h1 := hapart c.fontBase.toNat (Nat.le_refl _) (by omega)
    have h2 := hapart c.startAddr.toNat
    rw [← List.length_eq_zero_iff]
    omega

theorem construct_next {c : Config} {s : State} (h : State.construct c = .next s) :
    validConfig c = true ∧ s = State.initial c := by
  unfold State.construct at h
  split at h
  · cases h
    exact ⟨‹_›, rfl⟩
  · cases h

/-- Settles O7: the model's check is `Constructible`, decided. -/
theorem constructionChecks : Obligations.ConstructionChecks := by
  unfold Obligations.ConstructionChecks
  exact fun c => ⟨fun h => if_pos ((validConfig_iff_constructible c).mpr h),
    fun h => if_neg (mt (validConfig_iff_constructible c).mp h)⟩

theorem getD_replicate_zero (n j : Nat) : ((Vector.replicate n (0x00 : Byte))[j]?).getD 0 = 0#8 := by
  rw [Vector.getElem?_replicate]
  split <;> rfl

/-- Settles O8: the fields of `State.initial`. -/
theorem constructionResetValues : Obligations.ConstructionResetValues := by
  unfold Obligations.ConstructionResetValues
  intro c s h
  obtain ⟨_, rfl⟩ := construct_next h
  have hreg : ∀ r, (State.initial c).reg r = 0x00 := fun r => by simp [State.reg_eq, State.initial]
  have hpixel : ∀ px py, (State.initial c).pixel px py = false := fun px py => by
    simp only [State.pixel, pixelOf, dispByte, State.initial, getD_replicate_zero, BitVec.getLsbD_zero]
  have hkey : ∀ k, (State.initial c).keyDown k = false := fun k => by
    simp only [State.keyDown, keyBit, State.initial, getD_replicate_zero, BitVec.getLsbD_zero]
  exact ⟨hreg, rfl, rfl, rfl, rfl, rfl, rfl, rfl, rfl, rfl, rfl, rfl, hpixel, hkey, rfl, rfl, rfl, rfl, rfl, rfl⟩

/-- The ROM does not reach a font byte, nor the font a ROM byte. -/
theorem Constructible.rom_apart {c : Config} (h : Constructible c) {a : Nat} (h1 : c.fontBase.toNat ≤ a)
    (h2 : a < c.fontBase.toNat + 80) : a < c.startAddr.toNat ∨ c.startAddr.toNat + c.rom.length ≤ a := by
  rcases Nat.lt_or_ge a c.startAddr.toNat with hlt | hge
  · exact .inl hlt
  · exact .inr (h.apart a h1 h2 hge)

/-- Settles O9: the ROM, written last, lies apart from the font. -/
theorem constructionLoadsMemory : Obligations.ConstructionLoadsMemory := by
  unfold Obligations.ConstructionLoadsMemory
  intro c s h
  obtain ⟨hvalid, rfl⟩ := construct_next h
  have hc := (validConfig_iff_constructible c).mp hvalid
  have hfont : c.fontBase.toNat + c.fontData.toList.length ≤ memSize := by simpa [memSize] using hc.fontFits
  refine ⟨fun k hk => ?_, fun k hk => ?_, fun a hf hr => ?_⟩
  · have hrom := hc.rom_apart (a := c.fontBase.toNat + k) (by omega) (by omega)
    have hat := Memory.read_writeBytes_at (m := []) rfl hfont (k := k) (by simpa using hk)
    rw [Vector.getElem_toList] at hat
    exact (Memory.read_writeBytes_other _ _ hrom).trans hat
  · exact Memory.read_writeBytes_at (wf_fontMemory hvalid) hc.romFits hk
  · have hf' : a < c.fontBase.toNat ∨ c.fontBase.toNat + c.fontData.toList.length ≤ a := by simpa using hf
    exact (Memory.read_writeBytes_other _ _ hr).trans (Memory.read_writeBytes_other _ _ hf')

/-- The descriptor of a slot (44 R215). -/
theorem decodeSlots_getElem? (c : Config) (m : Memory) (k : Nat) :
    (decodeSlots c m)[k]? =
      if 2 * k < c.rom.length then some (decode (opcodeAt m (c.startAddr.toNat + 2 * k))) else none := by
  simp only [decodeSlots, slotCount, List.getElem?_map]
  split
  · rw [List.getElem?_range (by omega)]
    rfl
  · rw [List.getElem?_eq_none (by rw [List.length_range]; omega)]
    rfl

theorem initialDecodeCache_of_ne_direct {c : Config} (h : c.engine ≠ .direct) :
    initialDecodeCache c = decodeSlots c (initialMemory c) := by
  unfold initialDecodeCache
  split
  · exact absurd ‹_› h
  · rfl
  · rfl

/-- Settles O10: the slots of `initialDecodeCache`, one by one. -/
theorem constructionBuildsDecodeCache : Obligations.ConstructionBuildsDecodeCache := by
  unfold Obligations.ConstructionBuildsDecodeCache
  intro c s h
  obtain ⟨_, rfl⟩ := construct_next h
  refine ⟨fun he => by simp only [State.initial, initialDecodeCache, he], fun he k => ?_⟩
  simp only [State.initial, initialDecodeCache_of_ne_direct he, decodeSlots_getElem?, opcodeAt_eq]

/-- Settles O11: the default parameters pass the checks. -/
theorem resetIsTheDefaultConstruction : Obligations.ResetIsTheDefaultConstruction := by
  unfold Obligations.ResetIsTheDefaultConstruction
  have hvalid : validConfig defaultConfig = true := by decide
  exact ⟨if_pos hvalid, by decide, rfl, rfl, rfl, rfl, rfl, rfl⟩

/-- Settles O13: the reset values meet each clause, the parameters having passed the checks. -/
theorem everyConstructionMeetsInvariant : Obligations.EveryConstructionMeetsInvariant := by
  unfold Obligations.EveryConstructionMeetsInvariant
  intro c s h
  obtain ⟨hvalid, rfl⟩ := construct_next h
  exact {
    config := hvalid
    memory := wf_initialMemory hvalid
    cadence := ((validConfig_iff_constructible c).mp hvalid).ratio
    stack := fun l _ => Nat.zero_le l
    cache := rfl
    blocks := ⟨rfl, fun e b hb => nomatch hb⟩ }

/-- Settles O12: reset is a construction. -/
theorem resetMeetsInvariant : Obligations.ResetMeetsInvariant :=
  everyConstructionMeetsInvariant defaultConfig State.reset resetIsTheDefaultConstruction.1

/-- The invariant, of a state with the parameters and the caches of one that meets it. -/
theorem MachineInv.of_parts {s t : State} (h : MachineInv s) (hconfig : t.config = s.config)
    (hdecode : t.decodeCache = s.decodeCache) (hblocks : t.blockCache = s.blockCache) (hmem : t.mem.wf = true)
    (hcadence : CadenceInFrame t) (hstack : StackWithinLimit t) : MachineInv t where
  config := hconfig ▸ h.config
  memory := hmem
  cadence := hcadence
  stack := hstack
  cache := by
    rw [CacheAsBuilt, hdecode, hconfig]
    exact h.cache
  blocks := by
    have hbuild : ∀ e, t.buildBlock e = s.buildBlock e := fun e => by
      simp only [State.buildBlock, hconfig, hdecode]
    refine ⟨hblocks ▸ h.blocks.1, fun e b hb => ?_⟩
    rw [hbuild]
    exact h.blocks.2 e b (hblocks ▸ hb)

/-- The invariant reads no register, `pc`, key, display, `dirty` or field of the evaluation. -/
theorem MachineInv.setPc {s : State} (h : MachineInv s) (a : Addr) : MachineInv (s.setPc a) :=
  h.of_parts rfl rfl rfl h.memory h.cadence h.stack

/-- Only a call lengthens the stack, and only below the limit (60_exceptions.md R303). -/
theorem exec_stackWithinLimit {i : Instr} {s t : State} (hs : StackWithinLimit s) (h : exec i s = .next t) :
    StackWithinLimit t := by
  cases exec_effect h
  case ret a =>
    intro l hl
    have := hs l hl
    simp only [State.setPc_stack, State.dropTop_stack, List.length_dropLast]
    omega
  case call nnn hfull =>
    intro l hl
    have hle := hs l hl
    have hne : l ≠ s.stack.length := fun e => hfull (e ▸ hl)
    simp only [State.setPc_stack, State.push_stack, List.length_append, List.length_singleton]
    omega
  all_goals exact hs

/-- The two stores write inside memory and keep it canonical. -/
theorem exec_wf {i : Instr} {s t : State} (hs : s.mem.wf = true) (h : exec i s = .next t) : t.mem.wf = true := by
  cases exec_effect h
  case ldB x hr => exact Memory.wf_writeBytes hs (by simp only [State.effAddr, bcdDigits, List.length, memSize]; omega)
  case storeRegs x hr =>
    exact Memory.wf_writeBytes hs (by simp only [State.effAddr, State.blockBytes_length, memSize]; omega)
  all_goals exact hs

theorem MachineInv.exec {i : Instr} {s t : State} (hs : MachineInv s) (h : exec i s = .next t) : MachineInv t := by
  obtain ⟨hconfig, _, hdecode, hblocks, hcadence, _⟩ := noInstructionChangesHostOrEngineState i s t h
  refine hs.of_parts hconfig hdecode hblocks (exec_wf hs.memory h) ?_ (exec_stackWithinLimit hs.stack h)
  rw [CadenceInFrame, hcadence, hconfig]
  exact hs.cadence

theorem MachineInv.endEval {s : State} (h : MachineInv s) : MachineInv s.endEval := by
  rcases State.endEval_cases s with ⟨_, he⟩ | ⟨_, he⟩ <;> rw [he]
  · have hcadence := State.cadenceStep_inFrame h.cadence
    rw [State.cadenceStep_frame] at hcadence ⊢
    exact h.of_parts rfl rfl rfl h.memory hcadence h.stack
  · exact h

theorem MachineInv.evalInstr {i : Instr} {ia : Addr} {s t : State} (hs : MachineInv s)
    (h : evalInstr i ia s = .next t) : MachineInv t := by
  obtain ⟨u, hu, rfl⟩ := evalInstr_next h
  have hbegin : MachineInv (s.beginEval ia) := hs.of_parts rfl rfl rfl hs.memory hs.cadence hs.stack
  exact (hbegin.exec hu).endEval

/-- A block fetch stores nothing but what `BuildBlock` makes, in order (44 R221). -/
theorem MachineInv.fetchBlock {s : State} {b : List Instr} {c : List (Nat × List Instr)} (hs : MachineInv s)
    (h : s.fetchBlock = some (b, c)) : MachineInv (s.setBlockCache c) := by
  have hblocks : BlocksAsBuilt (s.setBlockCache c) := by
    rcases State.fetchBlock_cases s with ⟨b', _, hf⟩ | ⟨b', _, hbuild, hf⟩ | ⟨_, _, hf⟩
    · cases hf.symm.trans h
      exact hs.blocks
    · cases hf.symm.trans h
      refine ⟨blocksSorted_storeBlock hs.blocks.1 (Nat.zero_le _) b, fun e b' hb' => ?_⟩
      rw [State.setBlockCache_blockCache, cachedBlock_storeBlock hs.blocks.1] at hb'
      split at hb'
      · cases hb'
        subst_vars
        exact hbuild
      · exact hs.blocks.2 e b' hb'
    · cases hf.symm.trans h
  exact ⟨hs.config, hs.memory, hs.cadence, hs.stack, hs.cache, hblocks⟩

/-- Settles O14, over the parts of a tick. -/
theorem everyStepKeepsInvariant : Obligations.EveryStepKeepsInvariant := by
  unfold Obligations.EveryStepKeepsInvariant
  intro s t hs h
  refine step_induction (R := fun s t => MachineInv s → MachineInv t) (fun _ => id) (fun h h' => h' ∘ h) ?_ ?_ ?_ ?_ h hs
  · exact fun s _ hs => hs.of_parts rfl rfl rfl hs.memory hs.cadence hs.stack
  · exact fun hf hs => hs.fetchBlock hf
  · exact fun s a hs => hs.setPc a
  · exact fun he hs => hs.evalInstr he

/-- Settles O15: the invariant reads neither the keys nor `dirty`. -/
theorem hostMovesChangeKeysAndDirtyAlone : Obligations.HostMovesChangeKeysAndDirtyAlone := by
  unfold Obligations.HostMovesChangeKeysAndDirtyAlone
  refine fun s => ⟨fun k down j hj => keyBit_setKeyBit s.keys k down hj, fun _ _ => rfl, rfl, decide_eq_true_iff,
    fun m hs => ?_⟩
  cases m <;> exact hs.of_parts rfl rfl rfl hs.memory hs.cadence hs.stack

end Sys2Proof.Safety
end

section
/-! A block's run and the same descriptors run one by one (44_dispatch_engines.md section 5). -/

namespace Sys2Proof.Safety

open Sys2Proof.Machine

/-- Every slot's address lies in memory. -/
def SlotsInMemory (s : State) : Prop :=
  ∀ k, k < s.decodeCache.length → s.config.startAddr.toNat + 2 * k < 4096

theorem MachineInv.slotsInMemory {s : State} (h : MachineInv s) (he : s.config.engine ≠ .direct) : SlotsInMemory s := by
  intro k hk
  have hfits := ((validConfig_iff_constructible _).mp h.config).romFits
  rw [h.cache, initialDecodeCache_of_ne_direct he, length_decodeSlots] at hk
  omega

/-- What `decode_cache` does at a slot, in a view of a running core: it evaluates the slot's descriptor. -/
theorem step_view_cached {s : State} (hr : s.halted = .running) {k : Nat} {i : Instr} (hk : s.decodeCache[k]? = some i)
    {a : Addr} (ha : a.toNat = s.config.startAddr.toNat + 2 * k) (c : List (Nat × List Instr)) :
    step (s.view .decodeCache c a) = evalInstr i a (s.view .decodeCache c (a + 2)) := by
  have hfetch : (s.view .decodeCache c a).fetchCached = some i := (fetchCached_eq_some_iff _ i).mpr ⟨k, ha, hk⟩
  rw [step_cached (s := s.view .decodeCache c a) hr rfl, tickCached_of_fetch hfetch]
  rfl

theorem blockEnd_succ (a : Addr) (n : Nat) : blockEnd a (n + 1) = blockEnd (a + 2) n := by
  have h : BitVec.ofNat 12 (2 * (n + 1)) = 2#12 + BitVec.ofNat 12 (2 * n) := by
    rw [Nat.mul_succ, Nat.add_comm, BitVec.ofNat_add]
  rw [blockEnd, blockEnd, h, ← BitVec.add_assoc]
  rfl

theorem takeBlock_cons_cases (i : Instr) (is : List Instr) :
    takeBlock (i :: is) = [i] ∨ (isTerminator i = false ∧ is ≠ [] ∧ takeBlock (i :: is) = i :: takeBlock is) := by
  by_cases hi : isTerminator i = true
  · exact .inl (if_pos hi)
  · rw [takeBlock, if_neg hi]
    by_cases his : is = []
    · subst his
      exact .inl rfl
    · exact .inr ⟨by simpa using hi, his, rfl⟩

theorem evalInstr_pc_of_not_terminator {i : Instr} (hi : isTerminator i = false) {ia : Addr} {s t : State}
    (h : evalInstr i ia s = .next t) : t.pc = s.pc := by
  obtain ⟨u, hu, rfl⟩ := evalInstr_next h
  rw [State.endEval_pc, exec_pc_of_not_terminator hi hu]
  rfl

/-- A block's run that does not fault is as many `decode_cache` steps, in the view of that engine: while the block runs,
`pc` already is at its end, and the view's `pc` moves from slot to slot. -/
theorem run_of_runBlock (l : List Instr) {s t : State} {k : Nat} {ia : Addr} (hl : s.decodeCache.drop k = l) (hne : l ≠ [])
    (hslots : SlotsInMemory s) (hia : ia.toNat = s.config.startAddr.toNat + 2 * k)
    (hpc : s.pc = blockEnd ia (takeBlock l).length) (hs : s.halted = .running)
    (h : runBlock (takeBlock l) ia s = .next t) (ht : t.halted = .running) (c : List (Nat × List Instr)) :
    Host.Core.run Sys2Proof.core (takeBlock l).length (s.view .decodeCache c ia) = .next (t.view .decodeCache c t.pc) := by
  induction l generalizing s k ia with
  | nil => exact absurd rfl hne
  | cons i is ih =>
    have hk : s.decodeCache[k]? = some i := by
      rw [← Nat.add_zero k, ← List.getElem?_drop, hl]
      rfl
    rcases takeBlock_cons_cases i is with hb | ⟨hi, his, hb⟩
    · rw [hb] at h hpc ⊢
      obtain ⟨u, hu, ⟨_, hrest⟩ | ⟨hnot, rfl⟩⟩ := runBlock_cons_next h
      · cases hrest
        have hpc' : s.pc = ia + 2 := hpc
        have hstep := (step_view_cached hs hk hia c).trans (hpc' ▸ evalInstr_view hu .decodeCache c)
        exact run_succ_of_step hstep 0
      · exact absurd ht hnot
    · rw [hb] at h hpc ⊢
      obtain ⟨u, hu, ⟨hrun, hrest⟩ | ⟨hnot, rfl⟩⟩ := runBlock_cons_next h
      · obtain ⟨hconfig, _, hdecode, _⟩ := hostStateKept_evalInstr hu
        have hdrop : s.decodeCache.drop (k + 1) = is := by
          rw [← List.tail_drop, hl, List.tail_cons]
        have hlt : k + 1 < s.decodeCache.length := by
          by_contra hge
          exact his (hdrop ▸ List.drop_eq_nil_of_le (by omega))
        have hnext : (ia + 2).toNat = s.config.startAddr.toNat + 2 * (k + 1) := by
          have := hslots (k + 1) hlt
          simp only [BitVec.toNat_add, hia, BitVec.reduceToNat]
          omega
        have hstep := (step_view_cached hs hk hia c).trans (evalInstr_view_of_not_terminator hi hu .decodeCache c (ia + 2))
        refine (run_succ_of_step hstep _).trans (ih (hdecode ▸ hdrop) his ?_ (hconfig ▸ hnext) ?_ hrun hrest)
        · rw [SlotsInMemory, hdecode, hconfig]
          exact hslots
        · rw [evalInstr_pc_of_not_terminator hi hu, hpc, List.length_cons, blockEnd_succ]
      · exact absurd ht hnot

/-- Under the invariant a block fetch gives the block `BuildBlock` makes at `pc`, and leaves it cached (44 R221). -/
theorem MachineInv.fetchBlock_eq {s : State} (hs : MachineInv s) {b : List Instr} {c : List (Nat × List Instr)}
    (h : s.fetchBlock = some (b, c)) : s.buildBlock s.pc.toNat = some b ∧ cachedBlock c s.pc.toNat = some b := by
  rcases State.fetchBlock_cases s with ⟨b', hcached, hf⟩ | ⟨b', _, hbuild, hf⟩ | ⟨_, _, hf⟩
  · cases hf.symm.trans h
    exact ⟨hs.blocks.2 _ _ hcached, hcached⟩
  · cases hf.symm.trans h
    exact ⟨hbuild, cachedBlock_storeBlock_self ..⟩
  · cases hf.symm.trans h

/-- Settles O27: the tick's block is the run of descriptors from `pc`'s slot on, so `run_of_runBlock` applies to it. -/
theorem blockTickEqualsCachedTicks : Obligations.BlockTickEqualsCachedTicks := by
  unfold Obligations.BlockTickEqualsCachedTicks
  intro s t hinv hs he h ht
  rcases step_cases h with ⟨hne, _⟩ | ⟨_, code, rfl⟩ | ⟨_, hne, _⟩ | ⟨_, _, b, c, hf, hrun⟩
  · exact absurd hs hne
  · cases ht
  · exact absurd he hne
  · obtain ⟨hbuild, hcached⟩ := hinv.fetchBlock_eq hf
    obtain ⟨k, hk, rfl, hne⟩ := (s.buildBlock_eq_some_iff _ _).mp hbuild
    have hblocks : t.blockCache = c := (sameCaches_runBlock hrun).2
    refine ⟨_, hblocks ▸ hcached, hne, ?_⟩
    have hslots : SlotsInMemory s := hinv.slotsInMemory (by simp [he])
    exact run_of_runBlock _ (s := (s.setBlockCache c).setPc _) rfl (mt (takeBlock_eq_nil_iff _).mpr hne) hslots hk rfl hs hrun
      ht s.blockCache

end Sys2Proof.Safety
end

section
/-! The instructions one by one (40 to 43): result and frame. -/

namespace Sys2Proof.Machine

open Sys2Proof.Safety

/-- Settles O37: a byte of the cleared bitmap reads as 0. -/
theorem clearScreen : Obligations.ClearScreen := by
  unfold Obligations.ClearScreen
  refine fun s => ⟨_, rfl, fun j hj => ?_, rfl, fun _ => rfl, fun _ _ => rfl, rfl⟩
  exact getD_replicate_zero 256 j

/-- Settles O38: the top of `below ++ [a]` is `a`. -/
theorem returnPopsOrUnderflows : Obligations.ReturnPopsOrUnderflows := by
  unfold Obligations.ReturnPopsOrUnderflows
  refine ⟨fun s below a h => ?_, fun s h => ?_⟩
  · have htop : s.top = some a := by simp [State.top, h]
    have hdrop : s.stack.dropLast = below := by simp [h]
    rw [exec_ret_pop htop, ← hdrop]
    rfl
  · exact exec_ret_underflow (by simp [State.top, h])

/-- Settles O39: the offset is zero-extended, so that the sum wraps at 12 bits alone. -/
theorem jumpsSetPc : Obligations.JumpsSetPc := by
  unfold Obligations.JumpsSetPc
  refine fun s nnn => ⟨rfl, _, rfl, ?_, rfl⟩
  rw [State.setPc_pc, BitVec.toNat_add, toAddr_toNat]
  rfl

/-- Settles O40: the limit is checked before the push. -/
theorem callPushesOrOverflows : Obligations.CallPushesOrOverflows := by
  unfold Obligations.CallPushesOrOverflows
  exact fun s nnn => ⟨exec_call_push nnn, exec_call_overflow nnn⟩

/-- `pc` after a skip, as a number: 2 further, wrapped to 12 bits, when the condition holds (40 R104). -/
theorem State.skipIf_pc_toNat (s : State) (c : Bool) :
    (s.skipIf c).pc.toNat = if c = true then (s.pc.toNat + 2) % 4096 else s.pc.toNat := by
  cases c with
  | false => rfl
  | true => exact BitVec.toNat_add s.pc 2

theorem State.skipIf_frame (s : State) (c : Bool) : s.skipIf c = { s with pc := (s.skipIf c).pc } := by
  cases c <;> rfl

/-- The mask `0x000F` keeps the low digit. -/
theorem and_000F (op : Opcode) : op &&& 0x000F = opXYN 0 0 0 (fieldsOf op).n := by
  ext i hi
  rw [opXYN_getElem]
  interval_cases i <;> simp [fieldsOf]

/-- R76: of the opcodes `5XYN` and `9XYN`, those with a low digit other than 0 are unassigned. -/
theorem unassigned_of_low_digit {op : Opcode} (htop : op &&& 0xF000 = 0x5000 ∨ op &&& 0xF000 = 0x9000)
    (hlow : op &&& 0x000F ≠ 0) : unassigned op = true := by
  have hn : (fieldsOf op).n ≠ 0 := fun h0 => hlow (by rw [and_000F, h0]; rfl)
  have hd : op4 op = 5 ∨ op4 op = 9 := htop.imp
    (fun h => (opXYN_inj.mp ((and_F000 op).symm.trans (h : _ = opXYN 5 0 0 0))).1)
    (fun h => (opXYN_inj.mp ((and_F000 op).symm.trans (h : _ = opXYN 9 0 0 0))).1)
  rw [← opXYN_fieldsOf op, Laws.unassigned_opXYN]
  rcases hd with h | h <;> rw [h] <;> exact bne_iff_ne.mpr hn

/-- Settles O42: each skip is `State.skipIf` of its condition. -/
theorem skipsOnImmediateAndRegister : Obligations.SkipsOnImmediateAndRegister := by
  unfold Obligations.SkipsOnImmediateAndRegister
  refine ⟨fun op => ⟨decode_of_F00F 6 rfl, decode_of_F00F 9 rfl, fun htop hlow => ?_⟩, fun s x nn => ?_, fun s x y => ?_⟩
  · exact decode_of_unassigned (unassigned_of_low_digit htop hlow)
  · refine ⟨_, _, rfl, rfl, ?_, ?_, State.skipIf_frame .., State.skipIf_frame ..⟩
    · simp only [State.skipIf_pc_toNat, beq_iff_eq, BitVec.toNat_inj]
    · simp only [State.skipIf_pc_toNat, bne_iff_ne, BitVec.toNat_inj, ne_eq, ite_not]
  · refine ⟨_, _, rfl, rfl, ?_, ?_, ?_, State.skipIf_frame .., State.skipIf_frame ..⟩
    · simp only [State.skipIf_pc_toNat, beq_iff_eq, BitVec.toNat_inj]
    · simp only [State.skipIf_pc_toNat, bne_iff_ne, BitVec.toNat_inj, ne_eq, ite_not]
    · rintro rfl
      simp [State.skipIf]

/-- Settles O55: below 16 each is `State.skipIf` of the key's bit. -/
theorem keySkips : Obligations.KeySkips := by
  unfold Obligations.KeySkips
  refine fun s x => ⟨fun h => ⟨_, _, exec_skp h, exec_sknp h, ?_, ?_, State.skipIf_frame .., State.skipIf_frame ..⟩,
    fun h => ⟨exec_skp_range h, exec_sknp_range h⟩⟩
  · cases s.keyDown (s.reg x).toNat <;> rfl
  · cases s.keyDown (s.reg x).toNat <;> rfl

/-- A write of one register leaves the others. -/
theorem sameRegsBut_setReg (s : State) (x : Nibble) (b : Byte) : SameRegsBut [x] s (s.setReg x b) :=
  fun _ hq => State.setReg_reg_other s b (by simpa using hq)

/-- Settles O43: each is one write, and a register written with its own value stays. -/
theorem loadImmediateCopyAndIndex : Obligations.LoadImmediateCopyAndIndex := by
  unfold Obligations.LoadImmediateCopyAndIndex
  refine ⟨fun op => ⟨decode_of_F000 7 rfl, decode_of_F00F 14 rfl, decode_of_F000 10 rfl⟩, fun _ _ => rfl,
    fun s x y nn => ⟨_, _, rfl, rfl, State.setReg_reg_same .., sameRegsBut_setReg _ _ _, rfl, State.setReg_reg_same ..,
      sameRegsBut_setReg _ _ _, rfl, ?_⟩⟩
  rintro rfl
  exact State.setReg_self s x

/-- Settles O44: one register write, of a sum of bytes. -/
theorem addImmediateWrapsWithoutFlag : Obligations.AddImmediateWrapsWithoutFlag := by
  unfold Obligations.AddImmediateWrapsWithoutFlag
  refine fun s x nn => ⟨_, rfl, ?_, sameRegsBut_setReg _ _ _, rfl⟩
  rw [State.setReg_reg_same, BitVec.toNat_add]

/-- Settles O45: all three are `State.setLogicResult` of their result. -/
theorem logicOperations : Obligations.LogicOperations := by
  unfold Obligations.LogicOperations
  refine ⟨fun op => ⟨decode_of_F00F 15 rfl, decode_of_F00F 16 rfl, decode_of_F00F 17 rfl⟩, fun s x y i r hi => ?_⟩
  have hexec : exec i s = .next (s.setLogicResult x r) := by
    rcases hi with ⟨rfl, rfl⟩ | ⟨rfl, rfl⟩ | ⟨rfl, rfl⟩ <;> rfl
  refine ⟨_, hexec, ?_, fun hx => ?_, fun q hq => ?_, State.setLogicResult_frame s x r⟩
  · simp only [State.setLogicResult_reg, if_true, and_comm]
  · rw [State.vf, State.setLogicResult_reg, if_neg (Ne.symm hx)]
    simp only [and_true, State.vf]
  · simp_all [State.setLogicResult_reg]

section
variable (s : State) (x : Nibble) (b : Byte) (f : Bool)

/-- R133: the result stands in any register but `VF`. -/
theorem State.setResultFlag_reg_dest (hx : x ≠ 0xF) : (s.setResultFlag x b f).reg x = b := by
  rw [State.setResultFlag_reg, if_neg hx, if_pos rfl]

/-- R133: the flag is written last. -/
theorem State.setResultFlag_vf : (s.setResultFlag x b f).vf = flagByte f := by
  rw [State.vf, State.setResultFlag_reg, if_pos rfl]

theorem sameRegsBut_setResultFlag : SameRegsBut [x, 0xF] s (s.setResultFlag x b f) := fun q hq => by
  rw [List.mem_cons, List.mem_singleton, not_or] at hq
  rw [State.setResultFlag_reg, if_neg hq.2, if_neg hq.1]

end

/-- The carry flag's byte is the sum's ninth bit (41 R137). -/
theorem flagByte_carryOut_toNat (a b : Byte) : (flagByte (carryOut a b)).toNat = (a.toNat + b.toNat) / 256 := by
  have ha := a.isLt
  have hb := b.isLt
  unfold carryOut
  by_cases h : 0xFF < a.toNat + b.toNat
  · rw [decide_eq_true h, show (flagByte true).toNat = 1 from rfl]
    omega
  · rw [decide_eq_false h, show (flagByte false).toNat = 0 from rfl]
    omega

theorem flagByte_noBorrow (a b : Byte) : flagByte (noBorrow a b) = if b.toNat ≤ a.toNat then 1 else 0 := by
  simp only [flagByte, noBorrow, decide_eq_true_eq]

/-- A flag taken from a bit is that bit's digit. -/
theorem flagByte_getLsbD_toNat (b : Byte) (k : Nat) : (flagByte (b.getLsbD k)).toNat = b.toNat / 2 ^ k % 2 := by
  rw [BitVec.getLsbD, Nat.testBit_eq_decide_div_mod_eq, flagByte]
  rcases Nat.mod_two_eq_zero_or_one (b.toNat / 2 ^ k) with h | h <;> simp [h]

theorem flagByte_bitOutRight_toNat (b : Byte) : (flagByte (bitOutRight b)).toNat = b.toNat % 2 := by
  rw [bitOutRight, flagByte_getLsbD_toNat, Nat.pow_zero, Nat.div_one]

theorem flagByte_bitOutLeft_toNat (b : Byte) : (flagByte (bitOutLeft b)).toNat = b.toNat / 128 := by
  have hb := b.isLt
  rw [bitOutLeft, flagByte_getLsbD_toNat]
  omega

/-- Settles O46: `State.setResultFlag` of the sum and its carry. -/
theorem addRegistersSetsCarry : Obligations.AddRegistersSetsCarry := by
  unfold Obligations.AddRegistersSetsCarry
  refine ⟨fun op => decode_of_F00F 18 rfl, fun s x y => ⟨_, rfl, fun hx => ?_, ?_, sameRegsBut_setResultFlag _ _ _ _, rfl⟩⟩
  · rw [State.setResultFlag_reg_dest _ _ _ _ hx, BitVec.toNat_add]
  · rw [State.setResultFlag_vf, flagByte_carryOut_toNat]

/-- Settles O47: `State.setResultFlag` of the difference and `noBorrow`. -/
theorem subtractSetsNoBorrow : Obligations.SubtractSetsNoBorrow := by
  unfold Obligations.SubtractSetsNoBorrow
  refine ⟨fun op => ⟨decode_of_F00F 19 rfl, decode_of_F00F 21 rfl⟩, fun s x y => ⟨_, _, rfl, rfl, fun hx => ?_,
    ?_, ?_, sameRegsBut_setResultFlag _ _ _ _, rfl, sameRegsBut_setResultFlag _ _ _ _, rfl⟩⟩
  · have hr := (s.reg x).isLt
    have hq := (s.reg y).isLt
    rw [State.setResultFlag_reg_dest _ _ _ _ hx, State.setResultFlag_reg_dest _ _ _ _ hx, BitVec.toNat_sub,
      BitVec.toNat_sub]
    omega
  · rw [State.setResultFlag_vf, flagByte_noBorrow]
  · rw [State.setResultFlag_vf, flagByte_noBorrow]

/-- Settles O48: `State.setResultFlag` of the shifted operand and the bit shifted out. -/
theorem shiftsSetBitShiftedOut : Obligations.ShiftsSetBitShiftedOut := by
  unfold Obligations.ShiftsSetBitShiftedOut
  refine ⟨fun op => ⟨decode_of_F00F 20 rfl, decode_of_F00F 22 rfl⟩, fun s x y b hb => ⟨_, _, rfl, rfl, fun hx => ?_,
    ?_, ?_, sameRegsBut_setResultFlag _ _ _ _, rfl, sameRegsBut_setResultFlag _ _ _ _, rfl⟩⟩
  all_goals rw [hb, ← State.shiftOperand]
  · rw [State.setResultFlag_reg_dest _ _ _ _ hx, State.setResultFlag_reg_dest _ _ _ _ hx, BitVec.toNat_ushiftRight,
      BitVec.toNat_shiftLeft, Nat.shiftRight_eq_div_pow, Nat.shiftLeft_eq]
    exact ⟨rfl, rfl⟩
  · rw [State.setResultFlag_vf, flagByte_bitOutRight_toNat]
  · rw [State.setResultFlag_vf, flagByte_bitOutLeft_toNat]

/-- Settles O49: the evaluation begins by supplying the byte that the rule masks. -/
theorem randomByteIsMasked : Obligations.RandomByteIsMasked := by
  unfold Obligations.RandomByteIsMasked
  refine ⟨fun s x nn => ⟨_, rfl, State.setReg_reg_same .., sameRegsBut_setReg _ _ _, rfl⟩, fun s t x nn hr he hpc hi h => ?_⟩
  rw [step_direct hr he, tickDirect_of_fetch hpc, hi, evalInstr_of_exec rfl] at h
  cases h
  rw [State.endEval_frame]
  exact ⟨State.setReg_reg_same .., rfl⟩

/-- Settles O51: each is one write of its element. -/
theorem timerAndIndexTransfers : Obligations.TimerAndIndexTransfers := by
  unfold Obligations.TimerAndIndexTransfers
  refine fun s x => ⟨_, _, _, rfl, State.setReg_reg_same .., sameRegsBut_setReg _ _ _, rfl, rfl, rfl, rfl, ?_, rfl, rfl, ?_, rfl⟩
  · rw [State.setIndex_index, BitVec.toNat_add, toAddr_toNat]
  · exact State.glyphAddr_toNat s (s.reg x)

/-- Settles O52: the three bytes are read back as written, and a digit fits a byte. -/
theorem bcdStore : Obligations.BcdStore := by
  unfold Obligations.BcdStore
  refine fun s x => ⟨fun h => ⟨_, exec_ldB x h, fun hwf => ?_, fun a ha => ?_, rfl⟩, exec_ldB_range x⟩
  · have hb := (s.reg x).isLt
    have hfits : s.effAddr 0 + (bcdDigits (s.reg x)).length ≤ memSize := by
      simp only [State.effAddr, bcdDigits, List.length, memSize]
      omega
    have hat : ∀ k (hk : k < 3), (Memory.read (s.mem.writeBytes (s.effAddr 0) (bcdDigits (s.reg x))) (s.effAddr k)).toNat =
        ((bcdDigits (s.reg x))[k]'hk).toNat := fun k hk => congrArg _ (Memory.read_writeBytes_at hwf hfits hk)
    refine ⟨(hat 0 (by omega)).trans ?_, (hat 1 (by omega)).trans ?_, (hat 2 (by omega)).trans ?_⟩
    all_goals exact Nat.mod_eq_of_lt (by omega)
  · exact Memory.read_writeBytes_other _ _ ha

/-- Settles O53: the bytes of the block are read back as written, the `k`-th being `V[k]`. -/
theorem registerBlockStore : Obligations.RegisterBlockStore := by
  unfold Obligations.RegisterBlockStore
  refine ⟨fun op => decode_of_F0FF 32 rfl, fun s x => ⟨rfl, fun h => ⟨_, exec_storeRegs x h, fun hwf r hr => ?_,
    fun a ha => ?_, State.indexAfterBlock_toNat s x, rfl, rfl⟩, exec_storeRegs_range x⟩⟩
  · have hlen := s.blockBytes_length x
    have hat := Memory.read_writeBytes_at hwf (a := s.effAddr 0) (vs := s.blockBytes x)
      (by simp only [State.effAddr, hlen, memSize]; omega) (k := r.toNat) (by omega)
    rw [State.blockBytes_getElem, BitVec.ofNat_toNat, BitVec.setWidth_eq] at hat
    exact hat
  · rw [← s.blockBytes_length x] at ha
    exact Memory.read_writeBytes_other _ _ ha

/-- Settles O54: `State.setRegs_loadBlock_reg` says what each register then holds. -/
theorem registerBlockLoad : Obligations.RegisterBlockLoad := by
  unfold Obligations.RegisterBlockLoad
  exact ⟨fun op => decode_of_F0FF 33 rfl, fun s x => ⟨fun h => ⟨_, exec_loadRegs x h, State.setRegs_loadBlock_reg s x,
    State.indexAfterBlock_toNat s x, fun _ => rfl, rfl⟩, exec_loadRegs_range x⟩⟩

theorem State.lowestKey_eq_none {s : State} (hup : ∀ k, k < 16 → s.keyDown k = false) : s.lowestKey = none := by
  rcases State.lowestKey_cases s with ⟨h, _⟩ | ⟨k, _, hk, hdown, _⟩
  · exact h
  · exact absurd ((hup k hk).symm.trans hdown) (by simp)

theorem State.lowestKey_eq_some {s : State} {k : Nat} (hk : k < 16) (hdown : s.keyDown k = true)
    (hlow : ∀ j, j < k → s.keyDown j = false) : s.lowestKey = some k := by
  rcases State.lowestKey_cases s with ⟨_, hup⟩ | ⟨j, hj, _, hjdown, hjlow⟩
  · exact absurd ((hup k hk).symm.trans hdown) (by simp)
  · rcases Nat.lt_trichotomy j k with hlt | rfl | hgt
    · exact absurd ((hlow j hlt).symm.trans hjdown) (by simp)
    · exact hj
    · exact absurd ((hjlow k hgt).symm.trans hdown) (by simp)

/-- Settles O56: the three cases of `State.lowestKey` and the latch. -/
theorem keyWait : Obligations.KeyWait := by
  unfold Obligations.KeyWait
  refine fun s x => ⟨fun k hk hdown hlow => ?_, fun hup hl => exec_ldVK_release x (State.lowestKey_eq_none hup) hl,
    fun hup hl => exec_ldVK_wait x (State.lowestKey_eq_none hup) hl⟩
  refine ⟨_, exec_ldVK_capture x (State.lowestKey_eq_some hk hdown hlow), ?_, sameRegsBut_setReg _ _ _, rfl, rfl, rfl⟩
  have hreg : ((s.setReg x (BitVec.ofNat 8 k)).reg x).toNat = k := by
    rw [State.setReg_reg_same, BitVec.toNat_ofNat]
    omega
  exact hreg

/-- Settles O60: the evaluation of the no-op is its cadence step. -/
theorem unimplementedIsNoOp : Obligations.UnimplementedIsNoOp := by
  unfold Obligations.UnimplementedIsNoOp
  refine ⟨exec_unimpl, fun s hr he hpc hun => ?_⟩
  rw [step_direct hr he, tickDirect_of_fetch hpc, decode_of_unassigned hun, evalInstr_of_exec (exec_unimpl _ _), State.endEval_eq]
  exact congrArg Host.Outcome.next (if_pos hr)

end Sys2Proof.Machine
end

section
/-! `DXYN` (45_display_blit.md): its three outcomes, and its blit pixel by pixel. -/

namespace Sys2Proof.Machine

open Sys2Proof.Safety

theorem State.drawWaits_iff (s : State) :
    s.drawWaits = true ↔ s.config.quirks.displayWait = true ∧ s.displayWaitLatch = true :=
  Bool.and_eq_true_iff

theorem State.drawOutOfRange_iff (s : State) (y n : Nibble) :
    s.drawOutOfRange y n = true ↔ 0 < shownRows s y n ∧ 4096 ≤ s.index.toNat + shownRows s y n - 1 := by
  rw [State.drawOutOfRange, State.drawnRows_eq, Bool.and_eq_true, decide_eq_true_eq, outOfRange_iff, State.effAddr]
  omega

/-- `VF` after a draw is its collision (R248). -/
theorem State.draw_vf (s : State) (x y n : Nibble) : (s.draw x y n).vf = flagByte (s.blit x y n).collision :=
  (State.setVf_reg _ _ 0xF).trans (if_pos rfl)

/-- A draw leaves every register but `VF`. -/
theorem State.draw_reg (s : State) (x y n : Nibble) {q : Nibble} (hq : q ≠ 0xF) : (s.draw x y n).reg q = s.reg q :=
  (State.setVf_reg _ _ q).trans (if_neg hq)

/-- A draw that proceeds completes (R244). -/
theorem exec_drw_of_proceeds {s : State} (x : Nibble) {y n : Nibble} (h : DrawProceeds s y n) :
    exec (.drw x y n) s = .next (s.draw x y n) := by
  obtain ⟨hw, hr⟩ := (drawProceeds_iff s y n).mp h
  exact exec_drw x hw hr

theorem flagByte_eq_one_iff (b : Bool) : flagByte b = 1 ↔ b = true := by
  cases b <;> decide

theorem flagByte_eq_zero_iff (b : Bool) : flagByte b = 0 ↔ ¬ b = true := by
  cases b <;> decide

/-- Settles O57: the two checks come before the first write, in this order. -/
theorem drawWaitsFaultsOrCompletes : Obligations.DrawWaitsFaultsOrCompletes := by
  unfold Obligations.DrawWaitsFaultsOrCompletes
  refine fun s x y n => ⟨fun hq hl => exec_drw_wait x y n (s.drawWaits_iff.mpr ⟨hq, hl⟩), fun hno hpos hr => ?_, fun hp => ?_⟩
  · have hw : s.drawWaits = false := Bool.eq_false_iff.mpr (mt s.drawWaits_iff.mp hno)
    exact exec_drw_range x hw ((s.drawOutOfRange_iff y n).mpr ⟨hpos, hr⟩)
  · refine ⟨_, exec_drw_of_proceeds x hp, rfl, rfl, ?_, fun q hq => s.draw_reg x y n (by simpa using hq), fun _ => rfl, rfl⟩
    rw [State.draw_vf]
    rcases flagByte_cases (s.blit x y n).collision with ⟨_, h⟩ | ⟨_, h⟩
    · exact .inr h
    · exact .inl h

/-- The bytes a draw blits (R250). -/
def State.spriteBytes (s : State) (y n : Nibble) : List Byte := s.mem.readBytes (s.effAddr 0) (s.drawnRows y n)

theorem State.blit_eq (s : State) (x y n : Nibble) :
    s.blit x y n = Blit.rows s.config.quirks.clipping (s.originX x) (s.originY y) (s.spriteBytes y n) 0 ⟨s.display, false⟩ :=
  rfl

theorem State.spriteBytes_length (s : State) (y n : Nibble) : (s.spriteBytes y n).length = shownRows s y n := by
  rw [← State.drawnRows_eq]
  simp [State.spriteBytes, Memory.readBytes]

theorem State.spriteBytes_getElem (s : State) (y n : Nibble) (k : Nat) (hk : k < (s.spriteBytes y n).length) :
    (s.spriteBytes y n)[k] = s.mem.read (s.index.toNat + k) := by
  simp [State.spriteBytes, Memory.readBytes, State.effAddr]

theorem State.originX_lt (s : State) (x : Nibble) : s.originX x < 64 := Nat.mod_lt _ (by decide)

theorem State.originY_lt (s : State) (y : Nibble) : s.originY y < 32 := Nat.mod_lt _ (by decide)

theorem shownRows_le (s : State) (y n : Nibble) : shownRows s y n ≤ 16 := by
  have := n.isLt
  unfold shownRows
  split <;> omega

/-- The sprite's pixel is the row bit of the row `(py + 32 - yy) mod 32` below the origin, when that row is shown: clipping
leaves out exactly the rows past the bottom edge (R246). -/
theorem spritePixel_iff (s : State) (x y n : Nibble) (px py : Nat) :
    spritePixel s x y n px py = true ↔ (py + 32 - s.originY y) % 32 < shownRows s y n ∧
      rowBit s.config.quirks.clipping (s.originX x) (s.mem.read (s.index.toNat + (py + 32 - s.originY y) % 32)) px = true := by
  rw [show s.originY y = (s.reg y).toNat % 32 from rfl, show s.originX x = (s.reg x).toNat % 64 from rfl]
  unfold spritePixel rowBit shownRows
  cases s.config.quirks.clipping
  · simp only [Bool.not_false, Bool.true_or, Bool.and_true, Bool.and_eq_true, decide_eq_true_eq, Bool.false_eq_true, if_false]
    tauto
  · simp only [Bool.not_true, Bool.false_or, Bool.and_eq_true, decide_eq_true_eq, if_true, Nat.lt_min, Nat.lt_sub_iff_add_lt']
    tauto

/-- The rows of a draw put at each pixel what the sprite has there. -/
theorem rowsBit_spriteBytes (s : State) (x y n : Nibble) (px : Nat) {py : Nat} (hy : py < 32) :
    rowsBit s.config.quirks.clipping (s.originX x) (s.originY y) (s.spriteBytes y n) 0 px py = spritePixel s x y n px py := by
  have hlen := s.spriteBytes_length y n
  have hrows := shownRows_le s y n
  have hyy := s.originY_lt y
  rw [Bool.eq_iff_iff, rowsBit_eq _ _ _ _ 0 (by omega) px hy, spritePixel_iff]
  constructor
  · rintro ⟨k, hk, hpy, hbit⟩
    have hrow : (py + 32 - s.originY y) % 32 = k := by omega
    rw [State.spriteBytes_getElem] at hbit
    rw [hrow]
    exact ⟨hlen ▸ hk, hbit⟩
  · rintro ⟨hshown, hbit⟩
    refine ⟨(py + 32 - s.originY y) % 32, hlen ▸ hshown, by omega, ?_⟩
    rw [State.spriteBytes_getElem]
    exact hbit

/-- The display after a draw (R247). -/
theorem State.draw_pixel (s : State) (x y n : Nibble) {px py : Nat} (hx : px < 64) (hy : py < 32) :
    (s.draw x y n).pixel px py = (s.pixel px py ^^ spritePixel s x y n px py) := by
  rw [← rowsBit_spriteBytes s x y n px hy]
  exact Blit.rows_pixel _ (s.originX_lt x) _ _ 0 ⟨s.display, false⟩ hx

/-- The collision of a draw (R248): a lit pixel that the sprite has set. -/
theorem State.blit_collision_iff (s : State) (x y n : Nibble) :
    (s.blit x y n).collision = true ↔
      ∃ px py, px < 64 ∧ py < 32 ∧ s.pixel px py = true ∧ spritePixel s x y n px py = true := by
  have hlen := s.spriteBytes_length y n
  have hrows := shownRows_le s y n
  rw [State.blit_eq, Blit.rows_collision _ (s.originX_lt x) _ _ 0 (by omega)]
  simp only [Bool.false_eq_true, false_or]
  constructor
  · rintro ⟨px, py, hx, hy, hlit, hbit⟩
    exact ⟨px, py, hx, hy, hlit, rowsBit_spriteBytes s x y n px hy ▸ hbit⟩
  · rintro ⟨px, py, hx, hy, hlit, hbit⟩
    exact ⟨px, py, hx, hy, hlit, (rowsBit_spriteBytes s x y n px hy).trans hbit⟩

/-- Settles O58: the display and the collision of the row loop, in terms of the sprite's pixels. -/
theorem drawIsPixelwiseXor : Obligations.DrawIsPixelwiseXor := by
  unfold Obligations.DrawIsPixelwiseXor
  refine fun s x y n hp => ⟨_, exec_drw_of_proceeds x hp, fun px py hx hy => s.draw_pixel x y n hx hy, ?_, ?_⟩
  · rw [State.draw_vf, flagByte_eq_one_iff, State.blit_collision_iff]
  · rw [State.draw_vf, flagByte_eq_zero_iff, State.blit_collision_iff]

/-- Displays with the same pixels are equal: each bit of each byte is a pixel (R240). -/
theorem display_ext {d d' : Vector Byte 256} (h : ∀ px py, px < 64 → py < 32 → pixelOf d px py = pixelOf d' px py) :
    d = d' := by
  ext i hi j hj
  have hcol : (8 * (i % 8) + (7 - j)) / 8 = i % 8 := by omega
  have hbit : 7 - (8 * (i % 8) + (7 - j)) % 8 = j := by omega
  have hindex : dispIndex (i % 8) (i / 8) = i := Nat.mod_add_div i 8
  have hp := h (8 * (i % 8) + (7 - j)) (i / 8) (by omega) (by omega)
  simpa only [pixelOf, hcol, hbit, hindex, dispByte, Vector.getElem?_eq_getElem hi, Option.getD_some,
    BitVec.getLsbD_eq_getElem hj] using hp

/-- A draw leaves what the sprite's pixels are read from, when neither coordinate register is `VF`. -/
theorem spritePixel_draw (s : State) {x y : Nibble} (n : Nibble) (hx : x ≠ 0xF) (hy : y ≠ 0xF) (px py : Nat) :
    spritePixel (s.draw x y n) x y n px py = spritePixel s x y n px py := by
  unfold spritePixel
  rw [State.draw_reg s x y n hx, State.draw_reg s x y n hy]
  rfl

theorem shownRows_draw (s : State) (x : Nibble) {y : Nibble} (n : Nibble) (hy : y ≠ 0xF) :
    shownRows (s.draw x y n) y n = shownRows s y n := by
  unfold shownRows
  rw [State.draw_reg s x y n hy]
  rfl

/-- Settles O59: both draws XOR the same pixels, as neither coordinate register is `VF`. -/
theorem drawingTwiceRestoresDisplay : Obligations.DrawingTwiceRestoresDisplay := by
  unfold Obligations.DrawingTwiceRestoresDisplay
  intro s x y n hwait hx hy hp
  have hp' : DrawProceeds (s.draw x y n) y n := by
    refine ⟨fun h => absurd (hwait.symm.trans h.1) (by simp), ?_⟩
    rw [shownRows_draw s x n hy]
    exact hp.2
  refine ⟨_, _, exec_drw_of_proceeds x hp, exec_drw_of_proceeds x hp', display_ext fun px py hpx hpy => ?_, ?_⟩
  · have h1 := (s.draw x y n).draw_pixel x y n hpx hpy
    rw [s.draw_pixel x y n hpx hpy, spritePixel_draw s n hx hy, Bool.xor_assoc, Bool.xor_self, Bool.xor_false] at h1
    exact h1
  · rw [State.draw_vf, flagByte_eq_one_iff, State.blit_collision_iff]
    simp only [spritePixel_draw s n hx hy]

end Sys2Proof.Machine
end
